-- ==== Sys2Proof/Word.lean ====
section
/-! DEFINITION. The units the block moves (spec/20_memory.md R47, R49): binary64 numbers, characters and texts, bits,
symbols, nibbles and samples. Types only: every operation on them stands in Sys2Proof/Machine/, where it can be
mended. -/

namespace Sys2Proof

/-- The command word (30_encoding.md R55). -/
abbrev Word := BitVec 32

/-- A text is a finite sequence of Unicode scalar values (20_memory.md R47); Lean's `Char` is exactly that. -/
abbrev Text := List Char

/-- A bit string; element 0 is the first bit emitted (00_scope.md R15). -/
abbrev Bits := List Bool

/-- A 7-bit symbol (30_encoding.md R64). -/
abbrev Sym := BitVec 7

/-- A 4-bit bucket value (30_encoding.md R62). -/
abbrev Nib := BitVec 4

/-- A quantized sample: magnitude bucket, then direction bucket (30_encoding.md R62). -/
abbrev Sample := Nib × Nib

/-- How many finite magnitudes a binary64 has, counted from zero: the code of the infinities, 2047 * 2^52. -/
abbrev f64InfCode : Nat := 9218868437227405312

/-- An IEEE 754 binary64 value (00_scope.md R16). A finite value is a sign and the code of its magnitude: the code is
the low 63 bits of the interchange format, so codes count the magnitudes 0, 2^-1074, 2 * 2^-1074, … in rising order. No rule
reads a NaN's payload or sign, so there is one NaN (DEDUCED, safe; log 7). -/
inductive F64 where
  /-- Not a number. -/
  | nan
  /-- An infinity, negative when `neg`. -/
  | inf (neg : Bool)
  /-- A finite value, negative when `neg`; `mag` is the code of its magnitude, so zeros are signed. -/
  | fin (neg : Bool) (mag : Fin f64InfCode)
  deriving DecidableEq, Repr, Inhabited

/-- A base date and time: six naturals, with no zone and no fraction (10_state.md R30, D47). -/
structure DateTime where
  year : Nat
  month : Nat
  day : Nat
  hour : Nat
  minute : Nat
  second : Nat
  deriving DecidableEq, Repr, Inhabited

/-- The header metadata record (10_state.md R30): what META holds and HDRFMT formats. -/
structure HeaderMeta where
  hours : List Nat
  base : DateTime
  latmin : F64
  latmax : F64
  lonmin : F64
  lonmax : F64
  latstep : F64
  lonstep : F64
  deriving DecidableEq, Repr, Inhabited

/-- The header record PARSEHDR returns and REASM and BUILD take (45_reassembler.md R124). -/
structure Header where
  hours : List Nat
  base : DateTime
  latmin : F64
  latmax : F64
  lonmin : F64
  lonmax : F64
  latstep : F64
  lonstep : F64
  lat : List F64
  lon : List F64
  shift : Nat
  payload : Text
  deriving DecidableEq, Repr, Inhabited

/-- The data fragment record PARSEFRAG returns and REASM takes (45_reassembler.md R125). -/
structure DataFragment where
  index : Nat
  shift : Nat
  payload : Text
  deriving DecidableEq, Repr, Inhabited

/-- A wind field (20_memory.md R41); `u` and `v` list the components cell by cell in the order of R42. -/
structure WindField where
  hours : List Nat
  lat : List F64
  lon : List F64
  base : DateTime
  u : List F64
  v : List F64
  deriving DecidableEq, Repr, Inhabited

/-- The reconstructed field (20_memory.md R43; 45_reassembler.md R128): the buckets `M`, `D` and the vectors `u`, `v` of
every cell in the order of R42, the bounding box (latmin, latmax, lonmin, lonmax) and the spacing (latstep, lonstep). -/
structure RebuiltField where
  hours : List Nat
  base : DateTime
  lat : List F64
  lon : List F64
  M : List Nib
  D : List Nib
  u : List F64
  v : List F64
  bbox : F64 × F64 × F64 × F64
  spacing : F64 × F64
  deriving DecidableEq, Repr, Inhabited

end Sys2Proof
end

