-- ==== Sys2Proof/Syntax.lean ====
section
/-! DEFINITION. The commands of the block: one constructor per row of spec/opcode_table.json, with the scalar fields of the
command word (spec/30_encoding.md R56, R58). Operands of the operand port are no part of the word (R57): they stand in State. -/

namespace Sys2Proof

/-- A legal command word, read (30_encoding.md R61). A field has the width R56 gives it, so a term of this type has no
bit its word cannot hold; `shift` keeps its 16 values, since 10 to 15 are legal words that raise ShiftRange (R60). -/
inductive Instr where
  /-- Read the status word (44_framer.md R116). -/
  | rdstat
  /-- Read the sequencer's position (44_framer.md R117). -/
  | rdidx
  /-- Encode one symbol (41_alphabet.md R76). -/
  | encsym (value : Sym) (shift : BitVec 4)
  /-- Decode one symbol at a cursor (41_alphabet.md R77). -/
  | decsym (shift : BitVec 4)
  /-- Encode a symbol sequence (41_alphabet.md R78). -/
  | encstr (shift : BitVec 4)
  /-- Decode a payload line (41_alphabet.md R79). -/
  | decstr (shift : BitVec 4)
  /-- Quantize one wind vector (42_quantizer.md R83). -/
  | quant
  /-- The bucket centre of a sample (42_quantizer.md R85). -/
  | dequant (mag dir : Nib)
  /-- Quantize every cell of a field (42_quantizer.md R86). -/
  | qfield
  /-- Samples to bitstream (43_bitpacker.md R91). -/
  | pack
  /-- Bitstream to symbols (43_bitpacker.md R92). -/
  | group
  /-- Bitstream to nibbles (43_bitpacker.md R94). -/
  | split
  /-- Nibbles to samples (43_bitpacker.md R95). -/
  | unpack
  /-- Symbols to bitstream (43_bitpacker.md R93). -/
  | symbits
  /-- Format the header metadata lines (44_framer.md R100). -/
  | hdrfmt (shift : BitVec 4)
  /-- Build one fragment (44_framer.md R102). -/
  | frag (shift : BitVec 4)
  /-- Begin an encode (44_framer.md R112). -/
  | start
  /-- The host's answer to the last Send; `ok` means accepted (44_framer.md R113). -/
  | sendack (ok : Bool)
  /-- Abandon the current encode (44_framer.md R115). -/
  | cancel
  /-- Raw texts to surviving lines (45_reassembler.md R123). -/
  | rawsplit
  /-- Parse the header fragment (45_reassembler.md R124). -/
  | parsehdr
  /-- Parse one data fragment (45_reassembler.md R125). -/
  | parsefrag
  /-- Order the fragments and rebuild the bitstream (45_reassembler.md R126). -/
  | reasm
  /-- Regenerate one axis (45_reassembler.md R127). -/
  | axes
  /-- Check the grid size and rebuild the field (45_reassembler.md R128). -/
  | build
  /-- Decode a received corpus (45_reassembler.md R129). -/
  | decode
  deriving DecidableEq, Repr, Inhabited

end Sys2Proof
end

