-- ==== Sys2Proof/Decode.lean ====
section
/-! DEFINITION. The decoder of the command word (spec/30_encoding.md R55, R56, R58, R61), total on all words and rejecting by
name; then the encoder, written from the same tables, and the written form of a command (R73). -/

namespace Sys2Proof

/-- Why a word is illegal, in the order of 30_encoding.md R61 and 60_exceptions.md R140. Either way the block raises
IllegalCommand(word): 60_exceptions.md R138. -/
inductive DecodeError where
  /-- OP is not in the opcode map (30_encoding.md R59). -/
  | undefinedOpcode
  /-- A reserved bit of A, B or C is 1 (30_encoding.md R59). -/
  | reservedBit
  deriving DecidableEq, Repr

/-- OP = word[7:0] (30_encoding.md R55). -/
def opField (w : Word) : BitVec 8 := w.extractLsb' 0 8

/-- A = word[15:8] (30_encoding.md R55). -/
def aField (w : Word) : BitVec 8 := w.extractLsb' 8 8

/-- B = word[23:16] (30_encoding.md R55). -/
def bField (w : Word) : BitVec 8 := w.extractLsb' 16 8

/-- C = word[31:24], reserved in every command (30_encoding.md R55). -/
def cField (w : Word) : BitVec 8 := w.extractLsb' 24 8

/-- `i` when every reserved bit is 0. -/
def whenClear (clear : Bool) (i : Instr) : Except DecodeError Instr :=
  if clear then .ok i else .error .reservedBit

/-- An opcode that uses no field: all of A, B and C is reserved (30_encoding.md R56). -/
def noField (a b c : BitVec 8) (i : Instr) : Except DecodeError Instr :=
  whenClear (a == 0 && b == 0 && c == 0) i

/-- An opcode that uses `shift` = B[3:0] alone (30_encoding.md R56). -/
def shiftField (a b c : BitVec 8) (f : BitVec 4 → Instr) : Except DecodeError Instr :=
  whenClear (a == 0 && b.extractLsb' 4 4 == 0 && c == 0) (f (b.extractLsb' 0 4))

/-- The decoder over the four fields (30_encoding.md R61): the opcode first, then the reserved bits. -/
def decodeFields (op a b c : BitVec 8) : Except DecodeError Instr :=
  match op.toNat with
  | 0x01 => noField a b c .rdstat
  | 0x02 => noField a b c .rdidx
  | 0x10 =>
    whenClear (a.extractLsb' 7 1 == 0 && b.extractLsb' 4 4 == 0 && c == 0)
      (.encsym (a.extractLsb' 0 7) (b.extractLsb' 0 4))
  | 0x11 => shiftField a b c .decsym
  | 0x12 => shiftField a b c .encstr
  | 0x13 => shiftField a b c .decstr
  | 0x20 => noField a b c .quant
  | 0x21 =>
    whenClear (a.extractLsb' 4 4 == 0 && b.extractLsb' 4 4 == 0 && c == 0)
      (.dequant (a.extractLsb' 0 4) (b.extractLsb' 0 4))
  | 0x22 => noField a b c .qfield
  | 0x30 => noField a b c .pack
  | 0x31 => noField a b c .group
  | 0x32 => noField a b c .split
  | 0x33 => noField a b c .unpack
  | 0x34 => noField a b c .symbits
  | 0x40 => shiftField a b c .hdrfmt
  | 0x41 => shiftField a b c .frag
  | 0x42 => noField a b c .start
  | 0x43 =>
    whenClear (a.extractLsb' 1 7 == 0 && b == 0 && c == 0) (.sendack (a.extractLsb' 0 1 == 1))
  | 0x44 => noField a b c .cancel
  | 0x50 => noField a b c .rawsplit
  | 0x51 => noField a b c .parsehdr
  | 0x52 => noField a b c .parsefrag
  | 0x53 => noField a b c .reasm
  | 0x54 => noField a b c .axes
  | 0x55 => noField a b c .build
  | 0x56 => noField a b c .decode
  | _ => .error .undefinedOpcode

/-- The decoder of a command word (30_encoding.md R61). -/
def decode (w : Word) : Except DecodeError Instr :=
  decodeFields (opField w) (aField w) (bField w) (cField w)

/-- What the decoder reads from a row's bits, numbered as spec/opcode_table.json numbers them; `none` where it refuses. -/
def decodeTableWord (nbits w : Nat) : Option Instr :=
  match decode (BitVec.ofNat 32 (w % 2 ^ nbits)) with
  | .ok i => some i
  | .error _ => none

/-- A word from its four fields (30_encoding.md R55). -/
def wordOf (op a b : BitVec 8) : Word :=
  (0 : BitVec 8) ++ b ++ a ++ op

/-- A word whose only field is `shift` = B[3:0]. -/
def shiftWord (op : BitVec 8) (shift : BitVec 4) : Word :=
  wordOf op 0 ((0 : BitVec 4) ++ shift)

/-- The word of a command, from the opcode map and field places of 30_encoding.md R56 and R58, reserved bits 0. -/
def encode : Instr → Word
  | .rdstat => wordOf 0x01 0 0
  | .rdidx => wordOf 0x02 0 0
  | .encsym value shift => wordOf 0x10 ((0 : BitVec 1) ++ value) ((0 : BitVec 4) ++ shift)
  | .decsym shift => shiftWord 0x11 shift
  | .encstr shift => shiftWord 0x12 shift
  | .decstr shift => shiftWord 0x13 shift
  | .quant => wordOf 0x20 0 0
  | .dequant mag dir => wordOf 0x21 ((0 : BitVec 4) ++ mag) ((0 : BitVec 4) ++ dir)
  | .qfield => wordOf 0x22 0 0
  | .pack => wordOf 0x30 0 0
  | .group => wordOf 0x31 0 0
  | .split => wordOf 0x32 0 0
  | .unpack => wordOf 0x33 0 0
  | .symbits => wordOf 0x34 0 0
  | .hdrfmt shift => shiftWord 0x40 shift
  | .frag shift => shiftWord 0x41 shift
  | .start => wordOf 0x42 0 0
  | .sendack ok => wordOf 0x43 ((0 : BitVec 7) ++ BitVec.ofBool ok) 0
  | .cancel => wordOf 0x44 0 0
  | .rawsplit => wordOf 0x50 0 0
  | .parsehdr => wordOf 0x51 0 0
  | .parsefrag => wordOf 0x52 0 0
  | .reasm => wordOf 0x53 0 0
  | .axes => wordOf 0x54 0 0
  | .build => wordOf 0x55 0 0
  | .decode => wordOf 0x56 0 0

/-- The mnemonic of a command (30_encoding.md R58). -/
def mnemonicOf : Instr → String
  | .rdstat => "RDSTAT"
  | .rdidx => "RDIDX"
  | .encsym _ _ => "ENCSYM"
  | .decsym _ => "DECSYM"
  | .encstr _ => "ENCSTR"
  | .decstr _ => "DECSTR"
  | .quant => "QUANT"
  | .dequant _ _ => "DEQUANT"
  | .qfield => "QFIELD"
  | .pack => "PACK"
  | .group => "GROUP"
  | .split => "SPLIT"
  | .unpack => "UNPACK"
  | .symbits => "SYMBITS"
  | .hdrfmt _ => "HDRFMT"
  | .frag _ => "FRAG"
  | .start => "START"
  | .sendack _ => "SENDACK"
  | .cancel => "CANCEL"
  | .rawsplit => "RAWSPLIT"
  | .parsehdr => "PARSEHDR"
  | .parsefrag => "PARSEFRAG"
  | .reasm => "REASM"
  | .axes => "AXES"
  | .build => "BUILD"
  | .decode => "DECODE"

/-- The scalar fields of a command in the order value, mag, dir, ok, shift: what stands after the mnemonic in the written
form, which gives the operand-port values after them (30_encoding.md R73). -/
def writtenFields : Instr → List Nat
  | .encsym value shift => [value.toNat, shift.toNat]
  | .dequant mag dir => [mag.toNat, dir.toNat]
  | .sendack ok => [ok.toNat]
  | .decsym shift => [shift.toNat]
  | .encstr shift => [shift.toNat]
  | .decstr shift => [shift.toNat]
  | .hdrfmt shift => [shift.toNat]
  | .frag shift => [shift.toNat]
  | .rdstat => []
  | .rdidx => []
  | .quant => []
  | .qfield => []
  | .pack => []
  | .group => []
  | .split => []
  | .unpack => []
  | .symbits => []
  | .start => []
  | .cancel => []
  | .rawsplit => []
  | .parsehdr => []
  | .parsefrag => []
  | .reasm => []
  | .axes => []
  | .build => []
  | .decode => []

end Sys2Proof
end

