-- ==== Sys2Proof/Config.lean ====
section
/-! DEFINITION. The configuration record CFG (spec/10_state.md R23) as plain data, and the free values: the functions the
spec leaves open, as constants with no body. -/

namespace Sys2Proof

/-- CFG.CAP_SCOPE: what the 120-character cap counts (44_framer.md R103). -/
inductive CapScope where
  /-- The metadata lines and the payload line: the spec's default (D11). -/
  | whole
  /-- The payload line alone. -/
  | payload
  deriving DecidableEq, Repr, Inhabited

/-- CFG.ROUND_TIES: where `RoundI` sends an exact half (00_scope.md R17). -/
inductive RoundTies where
  /-- The even neighbour: the spec's default (D7). -/
  | even
  /-- The neighbour farther from zero. -/
  | away
  /-- The larger neighbour. -/
  | up
  deriving DecidableEq, Repr, Inhabited

/-- The configuration record CFG (10_state.md R23). `hypot`, `atan2`, `sin` and `cos` list the points of the four functions
that this configuration names; every other point of a function is the free value below. Each function is so total and
depends on its operands alone, which is all R26 grants (DESIGN CHOICE, safe; log 5). -/
structure Cfg where
  safeSet : List Char
  escTable : List Text
  maxPayload : Nat
  capScope : CapScope
  shiftLimit : Nat
  ktPerMs : F64
  roundTies : RoundTies
  hypot : List (F64 × F64 × F64)
  atan2 : List (F64 × F64 × F64)
  sin : List (F64 × F64)
  cos : List (F64 × F64)
  spacingTol : F64
  deriving DecidableEq, Repr, Inhabited

namespace Config

/-- CFG.HYPOT at a point the configuration does not name: free (10_state.md R26, D8; log 5). -/
opaque hypot : F64 → F64 → F64

/-- CFG.ATAN2 at a point the configuration does not name: free (10_state.md R26, D8; log 5). -/
opaque atan2 : F64 → F64 → F64

/-- CFG.SIN at a point the configuration does not name: free (10_state.md R26, D8; log 5). -/
opaque sin : F64 → F64

/-- CFG.COS at a point the configuration does not name: free (10_state.md R26, D8; log 5). -/
opaque cos : F64 → F64

end Config

end Sys2Proof
end

