-- ==== Sys2Proof/Machine/Binary64.lean ====
section
/-! DEFINITION. Binary64 arithmetic (spec/00_scope.md R16, R17): every operation computes its exact result as a fraction and
rounds it once, to nearest with ties to even. Exact values are counted in units of 2^-1074, the least positive binary64. -/

namespace Sys2Proof

/-- 2^52: the number of codes of one binary exponent. -/
abbrev binade : Nat := 4503599627370496

/-- One, in units of 2^-1074. -/
abbrev oneUnits : Nat := 2 ^ 1074

/-- The magnitude with a given code, in units of 2^-1074. -/
def unitsOfCode (code : Nat) : Nat :=
  if code < binade then code
  else (binade + code % binade) * 2 ^ (code / binade - 1)

/-- The finite value with a given sign and code, or the infinity of that sign when the code is past the largest. -/
def f64OfCode (neg : Bool) (code : Nat) : F64 :=
  if h : code < f64InfCode then .fin neg ⟨code, h⟩ else .inf neg

/-- The binary64 value with the sign `neg` nearest to num/den units, ties to even (00_scope.md R16); `den` is positive. R16 gives
ties to even for the four operations; that `fl` of a real halfway between two values takes the even one too, and that a value is
infinite from the midpoint of the largest finite value and 2^1024 on, are IEEE 754's (PRESUMED, unsafe; log 23). -/
def roundUnits (neg : Bool) (num den : Nat) : F64 :=
  let shift := Nat.log2 (num / den) - 52
  let unit := den * 2 ^ shift
  let floor := num / unit
  let rest := num % unit
  let up := decide (unit < 2 * rest) || (decide (2 * rest = unit) && decide (floor % 2 = 1))
  f64OfCode neg (shift * binade + (floor + up.toNat))

/-- +0. -/
def F64.zero : F64 := .fin false ⟨0, by decide⟩

/-- `isFinite(x)` (00_scope.md R16). -/
def F64.isFinite : F64 → Bool
  | .fin _ _ => true
  | _ => false

/-- A finite value in units of 2^-1074, as a signed integer. -/
def F64.signedUnits (neg : Bool) (code : Nat) : Int :=
  if neg then -(unitsOfCode code : Int) else (unitsOfCode code : Int)

/-- `fl` of a signed number of units; a zero has the sign `zeroNeg`. -/
def F64.ofSignedUnits (zeroNeg : Bool) (n : Int) : F64 :=
  if n = 0 then f64OfCode zeroNeg 0 else roundUnits (decide (n < 0)) n.natAbs 1

/-- `fl(n)` of an integer (00_scope.md R16). -/
def F64.ofInt (n : Int) : F64 := F64.ofSignedUnits false (n * (oneUnits : Int))

/-- −x. -/
def F64.neg : F64 → F64
  | .nan => .nan
  | .inf s => .inf (!s)
  | .fin s m => .fin (!s) m

/-- |x|. -/
def F64.abs : F64 → F64
  | .nan => .nan
  | .inf _ => .inf false
  | .fin _ m => .fin false m

/-- a ⊕ b (00_scope.md R16). An exact zero is −0 only when both operands are negative; an infinity less an infinity is not a
number (IEEE 754, PRESUMED: R16 names the format and the rounding, not these; log 8). -/
def F64.add : F64 → F64 → F64
  | .nan, _ => .nan
  | _, .nan => .nan
  | .inf s, .inf t => if s = t then .inf s else .nan
  | .inf s, .fin _ _ => .inf s
  | .fin _ _, .inf t => .inf t
  | .fin s m, .fin t n => F64.ofSignedUnits (s && t) (F64.signedUnits s m.val + F64.signedUnits t n.val)

/-- a ⊖ b (00_scope.md R16). -/
def F64.sub (a b : F64) : F64 := F64.add a (F64.neg b)

/-- a ⊗ b (00_scope.md R16); zero times an infinity is not a number (IEEE 754, PRESUMED; log 8). -/
def F64.mul : F64 → F64 → F64
  | .nan, _ => .nan
  | _, .nan => .nan
  | .inf s, .inf t => .inf (s != t)
  | .inf s, .fin t n => if n.val = 0 then .nan else .inf (s != t)
  | .fin s m, .inf t => if m.val = 0 then .nan else .inf (s != t)
  | .fin s m, .fin t n => roundUnits (s != t) (unitsOfCode m.val * unitsOfCode n.val) oneUnits

/-- a ⊘ b (00_scope.md R16); 0 ⊘ 0 and ∞ ⊘ ∞ are not numbers, and a finite non-zero over zero is an infinity (IEEE 754,
PRESUMED; log 8). -/
def F64.div : F64 → F64 → F64
  | .nan, _ => .nan
  | _, .nan => .nan
  | .inf _, .inf _ => .nan
  | .inf s, .fin t _ => .inf (s != t)
  | .fin s _, .inf t => f64OfCode (s != t) 0
  | .fin s m, .fin t n =>
    if n.val = 0 then (if m.val = 0 then .nan else .inf (s != t))
    else roundUnits (s != t) (unitsOfCode m.val * oneUnits) (unitsOfCode n.val)

/-- Where a value stands in the order of the extended reals; nothing for NaN, and one place for the two zeros. -/
def F64.orderKey : F64 → Option Int
  | .nan => none
  | .inf s => some (if s then -(f64InfCode : Int) else (f64InfCode : Int))
  | .fin s m => some (if s then -(m.val : Int) else (m.val : Int))

/-- a < b; false when either is NaN. -/
def F64.lt (a b : F64) : Bool :=
  match F64.orderKey a, F64.orderKey b with
  | some x, some y => decide (x < y)
  | _, _ => false

/-- a ≤ b; false when either is NaN. -/
def F64.le (a b : F64) : Bool :=
  match F64.orderKey a, F64.orderKey b with
  | some x, some y => decide (x ≤ y)
  | _, _ => false

/-- `fl` of the decimal m × 10^e with the sign `neg` (00_scope.md R16, 30_encoding.md R72). Two cases are answered without
computing the power: a value of 10^401 or more is past every binary64, and one below 2^-1099 is under half of the least. The lemma
`F64.ofDecimal_eq` of Laws/Binary64.lean says that the answer is the rounded exact value in every case. A zero keeps the sign
(DEDUCED; log 10); a tie and the bound past which `fl` is infinite are those of `roundUnits` (PRESUMED, unsafe; log 23). -/
def F64.ofDecimal (neg : Bool) (m : Nat) (e : Int) : F64 :=
  if 400 < e then (if m = 0 then f64OfCode neg 0 else .inf neg)
  else if (m.log2 : Int) + 3 * e < -1100 then f64OfCode neg 0
  else roundUnits neg (m * 10 ^ e.toNat * oneUnits) (10 ^ (-e).toNat)

/-- PI = fl(π) = 884279719003555 / 2^48 (00_scope.md R16; the digits of π are DEDUCED, log 20). -/
def F64.pi : F64 := f64OfCode false 4614256656552045848

/-- PI8 = PI ⊘ 8 (00_scope.md R16). -/
def F64.pi8 : F64 := F64.div F64.pi (F64.ofInt 8)

/-- `RoundI` of the finite value with sign `neg` and code `code` (00_scope.md R17): the nearest integer, an exact half going
where `ties` says. -/
def roundI (ties : RoundTies) (neg : Bool) (code : Nat) : Int :=
  let u := unitsOfCode code
  let floor := u / oneUnits
  let rest := u % oneUnits
  let tieUp : Bool :=
    match ties with
    | .even => decide (floor % 2 = 1)
    | .away => true
    | .up => !neg
  let up := decide (oneUnits < 2 * rest) || (decide (2 * rest = oneUnits) && tieUp)
  let n : Int := ((floor + up.toNat : Nat) : Int)
  if neg then -n else n

/-- `clip(n, lo, hi)` (00_scope.md R17). -/
def clip (n lo hi : Int) : Int := min (max n lo) hi

/-- A function of two reals: the point the configuration names, or the free value (10_state.md R26; log 5). -/
def applyPoints2 (points : List (F64 × F64 × F64)) (free : F64 → F64 → F64) (x y : F64) : F64 :=
  match points.find? fun p => decide (p.1 = x) && decide (p.2.1 = y) with
  | some p => p.2.2
  | none => free x y

/-- A function of one real: the point the configuration names, or the free value (10_state.md R26; log 5). -/
def applyPoints1 (points : List (F64 × F64)) (free : F64 → F64) (x : F64) : F64 :=
  match points.find? fun p => decide (p.1 = x) with
  | some p => p.2
  | none => free x

/-- CFG.HYPOT (10_state.md R26). -/
def cfgHypot (cfg : Cfg) : F64 → F64 → F64 := applyPoints2 cfg.hypot Config.hypot

/-- CFG.ATAN2 (10_state.md R26). -/
def cfgAtan2 (cfg : Cfg) : F64 → F64 → F64 := applyPoints2 cfg.atan2 Config.atan2

/-- CFG.SIN (10_state.md R26). -/
def cfgSin (cfg : Cfg) : F64 → F64 := applyPoints1 cfg.sin Config.sin

/-- CFG.COS (10_state.md R26). -/
def cfgCos (cfg : Cfg) : F64 → F64 := applyPoints1 cfg.cos Config.cos

end Sys2Proof
end

