-- ==== Sys2Proof/Machine/Text.lean ====
section
/-! DEFINITION. Text primitives (spec/00_scope.md R19): numerals, the float formatter `F` (44_framer.md R99), the date-time line
(30_encoding.md R71), joining and splitting lines (45_reassembler.md R122), and the tokens of the parse grammar (30_encoding.md
R72). -/

namespace Sys2Proof

/-- `NL`, U+000A (00_scope.md R12). -/
def nl : Char := '\n'

/-- Carriage return, U+000D. -/
def cr : Char := '\r'

/-- `ESC_MARK`, the character `@` (00_scope.md R12). -/
def escMark : Char := '@'

/-- `END_TOKEN` (00_scope.md R12). -/
def endToken : Text := ['E', 'N', 'D']

/-! ## Numerals -/

/-- The character of a decimal digit. -/
def digitChar (d : Nat) : Char := Char.ofNat (48 + d)

/-- The numeral of n in front of `acc`; the fuel is the number of digits at most. -/
def decLoop : Nat → Nat → Text → Text
  | 0, _, acc => acc
  | fuel + 1, n, acc =>
    if n < 10 then digitChar n :: acc
    else decLoop fuel (n / 10) (digitChar (n % 10) :: acc)

/-- `Dec(n)`: the shortest decimal numeral of a natural (00_scope.md R19). -/
def dec (n : Nat) : Text := decLoop (n.log2 + 1) n []

/-- `IntDec(n)`: the numeral of an integer (00_scope.md R19). -/
def intDec (n : Int) : Text :=
  if 0 ≤ n then dec n.toNat else '-' :: dec (-n).toNat

/-- A text padded on the left with `0` to a width; a longer text stays whole, so a date part too wide for its field is written with
all its digits (DEDUCED, unsafe; log 25). -/
def padZeros (width : Nat) (t : Text) : Text :=
  List.replicate (width - t.length) '0' ++ t

/-- `D2(n)` (30_encoding.md R71); past 99 it has more than two digits (DEDUCED, unsafe; log 25). -/
def dec2 (n : Nat) : Text := padZeros 2 (dec n)

/-- `D4(n)` (30_encoding.md R71); past 9999 it has more than four digits (DEDUCED, unsafe; log 25). -/
def dec4 (n : Nat) : Text := padZeros 4 (dec n)

/-- The date-time line (30_encoding.md R71). R71 says that a year above 9999 cannot be written and has START refuse it; its formula
is followed for the records HDRFMT and FRAG take from the port as well (DEDUCED, unsafe; log 25). -/
def dateTimeLine (d : DateTime) : Text :=
  dec4 d.year ++ ['-'] ++ dec2 d.month ++ ['-'] ++ dec2 d.day ++ [' '] ++
    dec2 d.hour ++ [':'] ++ dec2 d.minute ++ [':'] ++ dec2 d.second

/-! ## The float formatter -/

/-- The decimal exponent E of a positive magnitude of u units: 10^E ≤ u × 2^-1074 < 10^(E+1). -/
def decimalExponent (u : Nat) : Int :=
  ((dec (u * 10 ^ 324 / oneUnits)).length : Int) - 325

/-- The magnitude of u units as a fraction of 10^k. -/
def fractionOfPower (u : Nat) (k : Int) : Nat × Nat :=
  if 0 ≤ k then (u, oneUnits * 10 ^ k.toNat) else (u * 10 ^ (-k).toNat, oneUnits)

/-- Whether the decimal d × 10^k rounds to the positive value with code `code` under `fl` (44_framer.md R99). -/
def readsBack (code : Nat) (d : Nat) (k : Int) : Bool :=
  decide (F64.ofDecimal false d k = f64OfCode false code)

/-- The nearest numeral d × 10^k of the positive value with code `code` whose last digit has weight 10^k, if one rounds to
that value. Of two equally near ones it is the one whose last digit is even: R99 gives `repr`, and the vector
`1234567890123456.8` of 95_test_vectors.md is such a pair (PRESUMED, unsafe; log 9). -/
def numeralAt (code : Nat) (k : Int) : Option Nat :=
  let f := fractionOfPower (unitsOfCode code) k
  let low := f.1 / f.2
  let rest := f.1 % f.2
  let lowFits := readsBack code low k
  let highFits := decide (0 < rest) && readsBack code (low + 1) k
  let highNearer := decide (f.2 < 2 * rest) ||
    (decide (2 * rest = f.2) && decide (low % 2 = 1))
  if lowFits && !(highFits && highNearer) then some low
  else if highFits then some (low + 1)
  else none

/-- The shortest numeral (d, k) for d × 10^k, searched from the weight `top` of one digit downwards (44_framer.md R99): 17
digits always suffice. -/
def shortestNumeral (code : Nat) (top : Int) : Nat → Nat × Int
  | 0 => (0, top)
  | fuel + 1 =>
    match numeralAt code top with
    | some d => (d, top)
    | none => shortestNumeral code (top - 1) fuel

/-- The digits of a numeral without its trailing zeros. -/
def dropTrailingZeros (ds : Text) : Text :=
  (ds.reverse.dropWhile fun c => decide (c = '0')).reverse

/-- The layout of the digits `ds` with decimal exponent E (44_framer.md R99). -/
def floatLayout (ds : Text) (E : Int) : Text :=
  let n : Int := ds.length
  if -4 ≤ E ∧ E < 16 then
    if n - 1 ≤ E then ds ++ List.replicate (E - n + 1).toNat '0' ++ ['.', '0']
    else if 0 ≤ E then ds.take (E + 1).toNat ++ ['.'] ++ ds.drop (E + 1).toNat
    else ['0', '.'] ++ List.replicate (-E - 1).toNat '0' ++ ds
  else
    ds.take 1 ++ (if 1 < n then '.' :: ds.drop 1 else []) ++ ['e'] ++
      (if E < 0 then ['-'] else ['+']) ++ dec2 E.natAbs

/-- `F` of a positive value with code `code` (44_framer.md R99). -/
def floatDigits (code : Nat) : Text :=
  let E := decimalExponent (unitsOfCode code)
  let num := shortestNumeral code E 17
  let ds := dec num.1
  floatLayout (dropTrailingZeros ds) (num.2 + (ds.length : Int) - 1)

/-- `F(x)` (44_framer.md R99), which the spec defines on finite values; every caller has checked that. -/
def floatText : F64 → Text
  | .fin s m =>
    (if s then ['-'] else []) ++ (if m.val = 0 then ['0', '.', '0'] else floatDigits m.val)
  | _ => []

/-! ## Joining and splitting -/

/-- `Join(sep, ts)` (00_scope.md R19). -/
def joinTexts (sep : Text) : List Text → Text
  | [] => []
  | [t] => t
  | t :: t' :: ts => t ++ sep ++ joinTexts sep (t' :: ts)

/-- The pieces of a text between the occurrences of a character: one more than the occurrences. -/
def splitText (c : Char) : Text → List Text
  | [] => [[]]
  | x :: xs =>
    if x = c then [] :: splitText c xs
    else
      match splitText c xs with
      | [] => [[x]]
      | p :: ps => (x :: p) :: ps

/-- A line without one final carriage return (45_reassembler.md R122). -/
def stripCr (t : Text) : Text :=
  if t.getLast? = some cr then t.dropLast else t

/-- `Lines(t)` (45_reassembler.md R122). -/
def linesOf (t : Text) : List Text := (splitText nl t).map stripCr

/-! ## Tokens -/

/-- A character of `[0-9]`. -/
def isDigit (c : Char) : Bool := decide (48 ≤ c.toNat) && decide (c.toNat ≤ 57)

/-- The number a digit sequence writes. -/
def natOfDigits (t : Text) : Nat := t.foldl (fun n c => 10 * n + (c.toNat - 48)) 0

/-- The token `NAT` (30_encoding.md R72). -/
def parseNat (t : Text) : Option Nat :=
  if t ≠ [] ∧ t.all isDigit then some (natOfDigits t) else none

/-- The exponent part of a `REAL`, or nothing where there is none; `none` where it is malformed (30_encoding.md R72). -/
def parseExponent : Text → Option Int
  | [] => some 0
  | c :: r =>
    if c = 'e' ∨ c = 'E' then
      match r with
      | '-' :: d => (parseNat d).map fun n => -(n : Int)
      | '+' :: d => (parseNat d).map fun n => (n : Int)
      | d => (parseNat d).map fun n => (n : Int)
    else none

/-- The fraction part of a `REAL`: its digits and what follows, or nothing where there is no point; `none` where the point
has no digit after it (30_encoding.md R72). -/
def parseFraction : Text → Option (Text × Text)
  | '.' :: r =>
    if r.takeWhile isDigit = [] then none
    else some (r.takeWhile isDigit, r.dropWhile isDigit)
  | r => some ([], r)

/-- An unsigned `REAL`, read as `fl` of its decimal value with the sign `neg` (30_encoding.md R72). -/
def parseUnsignedReal (neg : Bool) (t : Text) : Option F64 := do
  let whole := t.takeWhile isDigit
  if whole = [] then none
  else do
    let (frac, r) ← parseFraction (t.dropWhile isDigit)
    let e ← parseExponent r
    let ds := whole ++ frac
    let x := F64.ofDecimal neg (natOfDigits ds) (e - (frac.length : Int))
    if x.isFinite then some x else none

/-- The token `REAL`; a value whose `fl` is infinite is malformed (30_encoding.md R72). -/
def parseReal : Text → Option F64
  | '-' :: t => parseUnsignedReal true t
  | t => parseUnsignedReal false t

/-- A leap year (30_encoding.md R72). -/
def isLeapYear (y : Nat) : Bool :=
  (decide (y % 4 = 0) && !decide (y % 100 = 0)) || decide (y % 400 = 0)

/-- The length of a month (30_encoding.md R72). -/
def monthLength (y m : Nat) : Nat :=
  if m = 2 then (if isLeapYear y then 29 else 28)
  else if m = 4 ∨ m = 6 ∨ m = 9 ∨ m = 11 then 30
  else 31

/-- A valid date and time (30_encoding.md R72, 44_framer.md R107 point 6). -/
def DateTime.valid (d : DateTime) : Bool :=
  decide (1 ≤ d.year) && decide (d.year ≤ 9999) && decide (1 ≤ d.month) && decide (d.month ≤ 12) &&
    decide (1 ≤ d.day) && decide (d.day ≤ monthLength d.year d.month) &&
    decide (d.hour ≤ 23) && decide (d.minute ≤ 59) && decide (d.second ≤ 59)

/-- The n characters of a text from position i. -/
def slice (t : Text) (i n : Nat) : Text := (t.drop i).take n

/-- The token `DATETIME`, which must name a valid date and time (30_encoding.md R72). -/
def parseDateTime (t : Text) : Option DateTime := do
  if t.length = 19 ∧ slice t 4 1 = ['-'] ∧ slice t 7 1 = ['-'] ∧ slice t 10 1 = [' '] ∧
      slice t 13 1 = [':'] ∧ slice t 16 1 = [':'] then do
    let year ← parseNat (slice t 0 4)
    let month ← parseNat (slice t 5 2)
    let day ← parseNat (slice t 8 2)
    let hour ← parseNat (slice t 11 2)
    let minute ← parseNat (slice t 14 2)
    let second ← parseNat (slice t 17 2)
    let d : DateTime := ⟨year, month, day, hour, minute, second⟩
    if d.valid then some d else none
  else none

/-- The tokens of a list line, each read by `read`: single commas, no empty token (30_encoding.md R72). -/
def parseList {α : Type} (read : Text → Option α) (t : Text) : Option (List α) :=
  (splitText ',' t).mapM read

end Sys2Proof
end

