-- ==== Sys2Proof/Machine/Build.lean ====
section
/-! DEFINITION. Which configurations are legal (spec/10_state.md R23, R24, R25; 70_reset_and_hazards.md R153), and the one the
block of State.reset was built with. -/

namespace Sys2Proof

/-- KT_PER_MS = fl(1.94384) (00_scope.md R12, R13). -/
def knotsPerMs : F64 := F64.ofDecimal false 194384 (-5)

/-- A control character: U+0000 to U+001F and U+007F to U+009F. The spec says only `not a control character`; the range is
Unicode's category Cc (PRESUMED, unsafe; log 14). -/
def isControl (c : Char) : Bool :=
  decide (c.toNat < 32) || (decide (127 ≤ c.toNat) && decide (c.toNat ≤ 159))

/-- Whether two characters are one, by their code points. -/
def sameChar (a b : Char) : Bool := Nat.beq a.toNat b.toNat

/-- Conditions (b), (c) and (d) of 10_state.md R24 on one character. -/
def safeChar (c : Char) : Bool :=
  !sameChar c escMark && !sameChar c nl && !sameChar c cr && !isControl c

/-- Whether no number of a list stands twice in it or has its bit set in `seen`: one bit test a number. The lemma
`codesDistinct_iff` of Laws/Config.lean says so in the library's terms. -/
def codesDistinct (seen : Nat) : List Nat → Bool
  | [] => true
  | c :: cs => !seen.testBit c && codesDistinct (seen ||| 2 ^ c) cs

/-- 10_state.md R24: 122 characters, pairwise distinct (condition (a)), each one allowed. -/
def safeSetLegal (cs : List Char) : Bool :=
  decide (cs.length = 122) && codesDistinct 0 (cs.map Char.toNat) && cs.all safeChar

/-- An escape pair as 10_state.md R25 asks: `@` and a character that is no line end. -/
def escapePair : Text → Bool
  | [a, b] => sameChar a escMark && !sameChar b nl && !sameChar b cr
  | _ => false

/-- 10_state.md R25: six pairwise distinct escape pairs. -/
def escTableLegal (ts : List Text) : Bool :=
  decide (ts.length = 6) && decide ts.Nodup && ts.all escapePair

/-- The legal values of CFG (10_state.md R23; 70_reset_and_hazards.md R153): the two tables, the three fixed values and a
tolerance of zero or more. That a wrong fixed value or a bad tolerance is refused as a bad table is, is DEDUCED (log 13). -/
def Cfg.legal (cfg : Cfg) : Bool :=
  safeSetLegal cfg.safeSet && escTableLegal cfg.escTable &&
    decide (cfg.maxPayload = 120) && decide (cfg.shiftLimit = 10) && decide (cfg.ktPerMs = knotsPerMs) &&
    F64.le F64.zero cfg.spacingTol

/-- The safe set at reset: the printable ASCII characters from `!` to `~` without `@`, then U+00C0 to U+00DC. The spec leaves
the set OPEN (DESIGN CHOICE, unsafe; log 3). -/
def builtSafeSet : List Char :=
  ((List.range 94).map fun i => Char.ofNat (33 + i)).filter (fun c => decide (c ≠ escMark)) ++
    (List.range 29).map fun i => Char.ofNat (192 + i)

/-- The escape pairs at reset: `@0` to `@5`. The spec leaves them OPEN (DESIGN CHOICE, unsafe; log 3). -/
def builtEscTable : List Text :=
  (List.range 6).map fun i => [escMark, digitChar i]

/-- The configuration of the block at reset: the values and defaults of 00_scope.md R12, the two tables above, and no named
point of the four functions (log 3, log 4, log 5). -/
def builtCfg : Cfg where
  safeSet := builtSafeSet
  escTable := builtEscTable
  maxPayload := 120
  capScope := .whole
  shiftLimit := 10
  ktPerMs := knotsPerMs
  roundTies := .even
  hypot := []
  atan2 := []
  sin := []
  cos := []
  spacingTol := F64.zero

end Sys2Proof
end

