-- ==== Sys2Proof/Machine/State.lean ====
section
/-! DEFINITION. The state of the block as plain data: the configuration record (spec/10_state.md R23), the encode sequencer
registers (R27), the event history (R35), the operand and result ports (30_encoding.md R57) and what the host does next. -/

namespace Sys2Proof.Machine

/-! ## Errors (60_exceptions.md R135, R136) -/

/-- The error codes (60_exceptions.md R135), and the values of ERR. -/
inductive ErrCode where
  | none
  | alphabetError
  | malformedHeader
  | malformedFragment
  | gridSizeMismatch
  | retryExhausted
  | shiftRange
  | invalidSample
  | invalidField
  | frameOverflow
  | duplicateIndex
  | illegalCommand
  | cancelled
  | operandRange
  deriving DecidableEq, Repr, Inhabited

/-- The reasons of AlphabetError (60_exceptions.md R136). -/
inductive AlphabetReason where
  | endOfText
  | truncatedEscape
  | unknownEscape
  | unknownChar
  deriving DecidableEq, Repr, Inhabited

/-- The reasons of MalformedHeader (60_exceptions.md R136). -/
inductive HeaderReason where
  | lineCount
  | hours
  | dateTime
  | boundingBox
  | spacing
  | shift
  | latAxis
  | lonAxis
  /-- From AXES alone. -/
  | axis
  deriving DecidableEq, Repr, Inhabited

/-- The reasons of MalformedFragment (60_exceptions.md R136). -/
inductive FragmentReason where
  | unpaired
  | metadata
  | index
  | shift
  deriving DecidableEq, Repr, Inhabited

/-- The reasons of InvalidField (60_exceptions.md R136), in the order of 44_framer.md R107. -/
inductive FieldReason where
  | noHours
  | hoursOrder
  | axisLength
  | axisValue
  | axisOrder
  | baseTime
  | cellCount
  deriving DecidableEq, Repr, Inhabited

/-- The information of IllegalCommand (60_exceptions.md R138). -/
inductive IllegalInfo where
  | word (w : Word)
  | busy
  | notSending
  deriving DecidableEq, Repr, Inhabited

/-- The operands that have a domain a port value can miss, by the name their rule gives them (60_exceptions.md R139). -/
inductive OperandName where
  | ss
  | S
  | b
  | nb
  | metadata
  | cur
  | F
  | hdr
  | frs
  | bits
  deriving DecidableEq, Repr, Inhabited

/-- An error with the information it records (60_exceptions.md R135). Cancelled has no term here: it is never raised. -/
inductive Err where
  /-- `fragment` is the fragment index from REASM and DECODE, and nothing from DECSYM and DECSTR. -/
  | alphabetError (fragment : Option Nat) (p : Nat) (reason : AlphabetReason)
  | malformedHeader (reason : HeaderReason)
  | malformedFragment (reason : FragmentReason)
  | gridSizeMismatch (count cells : Nat)
  | retryExhausted (index : Nat)
  | shiftRange (shift : Nat)
  /-- `cell` is the cell number from QFIELD and START, and nothing from QUANT. -/
  | invalidSample (cell : Option Nat) (u v : F64)
  | invalidField (reason : FieldReason)
  | frameOverflow (index : Nat)
  | duplicateIndex (index : Nat)
  | illegalCommand (info : IllegalInfo)
  | operandRange (name : OperandName)
  deriving DecidableEq, Repr, Inhabited

/-! ## The operand port (30_encoding.md R57, R58)

A lane has the type its operand has, wide enough for the values outside the operand's domain that 60_exceptions.md R139
refuses: symbols, nibbles and bits as naturals, records with each part present or absent. -/

/-- A base date and time on the port. -/
structure DateTimeOperand where
  year : Option Nat
  month : Option Nat
  day : Option Nat
  hour : Option Nat
  minute : Option Nat
  second : Option Nat
  deriving DecidableEq, Repr, Inhabited

/-- A header metadata record on the port (10_state.md R30). -/
structure MetaOperand where
  hours : Option (List Nat)
  base : Option DateTimeOperand
  latmin : Option F64
  latmax : Option F64
  lonmin : Option F64
  lonmax : Option F64
  latstep : Option F64
  lonstep : Option F64
  deriving DecidableEq, Repr, Inhabited

/-- A header record on the port (45_reassembler.md R124). -/
structure HeaderOperand where
  hours : Option (List Nat)
  base : Option DateTimeOperand
  latmin : Option F64
  latmax : Option F64
  lonmin : Option F64
  lonmax : Option F64
  latstep : Option F64
  lonstep : Option F64
  lat : Option (List F64)
  lon : Option (List F64)
  shift : Option Nat
  payload : Option Text
  deriving DecidableEq, Repr, Inhabited

/-- A data fragment record on the port (45_reassembler.md R125). -/
structure FragmentOperand where
  index : Option Nat
  shift : Option Nat
  payload : Option Text
  deriving DecidableEq, Repr, Inhabited

/-- A wind field on the port (20_memory.md R41). -/
structure FieldOperand where
  hours : Option (List Nat)
  lat : Option (List F64)
  lon : Option (List F64)
  base : Option DateTimeOperand
  u : Option (List F64)
  v : Option (List F64)
  deriving DecidableEq, Repr, Inhabited

/-- The operand port: one lane per operand name of the command rules (30_encoding.md R58, R73); `metadata` is the operand
`meta`. A command reads its own lanes and no other. -/
structure Port where
  t : Text
  p : Nat
  ss : List Nat
  u : F64
  v : F64
  F : FieldOperand
  S : List (Nat × Nat)
  b : List Nat
  nb : List Nat
  N : Nat
  metadata : MetaOperand
  index : Nat
  cur : Nat
  ts : List Text
  ls : List Text
  hdr : HeaderOperand
  frs : List FragmentOperand
  lo : F64
  hi : F64
  step : F64
  bits : List Nat
  deriving DecidableEq, Repr, Inhabited

/-! ## The result port (30_encoding.md R57) -/

/-- A result, by the type the opcode map gives it (30_encoding.md R58). -/
inductive Value where
  /-- START, SENDACK and CANCEL: none (state change). -/
  | none
  | status (w : Word)
  | position (index cursor count nsym : Nat)
  | text (t : Text)
  | symbol (s : Sym) (consumed : Nat)
  | symbols (ss : List Sym)
  | sample (mag dir : Nib)
  | vector (u v : F64)
  | samples (S : List Sample)
  | bits (b : Bits)
  | nibbles (nb : List Nib)
  | fragment (t : Text) (count : Nat)
  | lines (ls : List Text)
  | header (h : Header)
  | dataFragment (f : DataFragment)
  | axis (xs : List F64)
  | field (F : RebuiltField)
  deriving DecidableEq, Repr, Inhabited

/-- What the last command put on the result port (60_exceptions.md R134). -/
inductive Output where
  /-- No command has run. -/
  | idle
  | ok (v : Value)
  | err (e : Err)
  deriving DecidableEq, Repr, Inhabited

/-! ## The sequencer -/

/-- The values of STATE (10_state.md R27, R28). -/
inductive SeqState where
  | idle
  | sending
  | done
  | exhausted
  | faulted
  | cancelled
  deriving DecidableEq, Repr, Inhabited

/-- The values of RESULT (10_state.md R27). -/
inductive RunResult where
  | none
  | true
  | false
  deriving DecidableEq, Repr, Inhabited

/-- An event of the host event history (10_state.md R35). -/
inductive Event where
  | send (t : Text)
  | ack (ok : Bool)
  deriving DecidableEq, Repr, Inhabited

/-- What the host does next (60_exceptions.md R145). -/
inductive HostAct where
  /-- Present a command word with its operands. -/
  | command (w : Word) (operands : Port)
  /-- Reset the block (70_reset_and_hazards.md R152). -/
  | reset
  /-- Load a configuration and reset (70_reset_and_hazards.md R153). -/
  | build (cfg : Cfg)
  deriving DecidableEq, Repr, Inhabited

/-- The state of the block. -/
structure State where
  /-- CFG (10_state.md R23). -/
  cfg : Cfg
  /-- STATE (10_state.md R27). -/
  state : SeqState
  /-- SHIFT (10_state.md R27). -/
  shift : BitVec 4
  /-- INDEX (10_state.md R27). -/
  index : Nat
  /-- CURSOR (10_state.md R27). -/
  cursor : Nat
  /-- COUNT (10_state.md R27). -/
  count : Nat
  /-- NSYM (10_state.md R27). -/
  nsym : Nat
  /-- SYMS (10_state.md R27). -/
  syms : List Sym
  /-- META (10_state.md R27, R30). -/
  header : HeaderMeta
  /-- TXBUF (10_state.md R27). -/
  txbuf : Text
  /-- RESULT (10_state.md R27). -/
  result : RunResult
  /-- ERR (10_state.md R27). -/
  err : ErrCode
  /-- WARN_LAT (10_state.md R27, R33). -/
  warnLat : Bool
  /-- WARN_LON (10_state.md R27, R33). -/
  warnLon : Bool
  /-- TXLOG (10_state.md R35). -/
  txlog : List Event
  /-- The operand port (30_encoding.md R57). -/
  port : Port
  /-- The result port (30_encoding.md R57). -/
  out : Output
  /-- What the host does next, the model's own field (DESIGN CHOICE, safe; log 1). -/
  pending : List HostAct
  deriving DecidableEq, Repr, Inhabited

/-- Why a step stops the machine: nothing does. Every error of the block is a result, after which the host presents the next
command (60_exceptions.md R134, R141), so this type has no constructor. -/
inductive Fault where
  deriving DecidableEq, Repr

/-- Why the model gives a step no meaning. -/
inductive Refusal where
  /-- Raised by exec for an instruction that has no meaning yet; safe. No arm raises it. -/
  | notModelled (mnemonic : String)
  /-- Raised by every command, by a reset and by a build when the configuration is not legal: no state of the block is
  defined under it (10_state.md R24; 93_implementation_defined.md I7); safe. -/
  | illegalConfiguration
  deriving DecidableEq, Repr

/-! ## Reset -/

/-- META after reset: the spec gives no value (10_state.md R38; DESIGN CHOICE, unsafe; log 6). -/
def resetHeader : HeaderMeta where
  hours := [0]
  base := ⟨0, 0, 0, 0, 0, 0⟩
  latmin := F64.zero
  latmax := F64.zero
  lonmin := F64.zero
  lonmax := F64.zero
  latstep := F64.zero
  lonstep := F64.zero

/-- The operand port before the host has presented anything (DESIGN CHOICE, unsafe; log 2). -/
def resetPort : Port where
  t := []
  p := 0
  ss := []
  u := F64.zero
  v := F64.zero
  F := ⟨none, none, none, none, none, none⟩
  S := []
  b := []
  nb := []
  N := 0
  metadata := ⟨none, none, none, none, none, none, none, none⟩
  index := 0
  cur := 0
  ts := []
  ls := []
  hdr := ⟨none, none, none, none, none, none, none, none, none, none, none, none⟩
  frs := []
  lo := F64.zero
  hi := F64.zero
  step := F64.zero
  bits := []

/-- The block right after reset (10_state.md R38), built with the configuration of Machine/Build.lean. -/
def State.reset : State where
  cfg := builtCfg
  state := .idle
  shift := 0
  index := 0
  cursor := 0
  count := 0
  nsym := 0
  syms := []
  header := resetHeader
  txbuf := []
  result := .none
  err := .none
  warnLat := false
  warnLon := false
  txlog := []
  port := resetPort
  out := .idle
  pending := []

end Sys2Proof.Machine
end

