-- ==== Sys2Proof/Machine/Operands.lean ====
section
/-! DEFINITION. Reading operands: the shift field (spec/30_encoding.md R60) and the domain check of every operand-port value
(60_exceptions.md R139), each an operation that answers the operand or the error. A command reads its operands in the order of
60_exceptions.md R140. -/

namespace Sys2Proof.Machine

/-- A value, or OperandRange(name) where the port gave none in the domain (60_exceptions.md R139). -/
def requireOperand {α : Type} (name : OperandName) : Option α → Except Err α
  | some x => .ok x
  | none => .error (.operandRange name)

/-- The field `shift`; 10 to 15 raise ShiftRange (30_encoding.md R60). The bound is CFG.SHIFT_LIMIT (10_state.md R23). -/
def shiftOf (cfg : Cfg) (shift : BitVec 4) : Except Err Nat :=
  if shift.toNat < cfg.shiftLimit then .ok shift.toNat else .error (.shiftRange shift.toNat)

/-- A symbol sequence: each 0 to 127 (60_exceptions.md R139). -/
def symbolsOf (name : OperandName) (ns : List Nat) : Except Err (List Sym) :=
  if ns.all fun n => decide (n < 128) then .ok (ns.map (BitVec.ofNat 7)) else .error (.operandRange name)

/-- A nibble sequence: each 0 to 15 (60_exceptions.md R139). -/
def nibblesOf (name : OperandName) (ns : List Nat) : Except Err (List Nib) :=
  if ns.all fun n => decide (n < 16) then .ok (ns.map (BitVec.ofNat 4)) else .error (.operandRange name)

/-- A bit string: each 0 or 1 (60_exceptions.md R139). -/
def bitsOf (name : OperandName) (ns : List Nat) : Except Err Bits :=
  if ns.all fun n => decide (n < 2) then .ok (ns.map fun n => decide (n = 1)) else .error (.operandRange name)

/-- A sample sequence: two values 0 to 15 each (60_exceptions.md R139). -/
def samplesOf (name : OperandName) (ps : List (Nat × Nat)) : Except Err (List Sample) :=
  if ps.all fun p => decide (p.1 < 16) && decide (p.2 < 16) then
    .ok (ps.map fun p => (BitVec.ofNat 4 p.1, BitVec.ofNat 4 p.2))
  else .error (.operandRange name)

/-- A date and time with all six parts (10_state.md R30). -/
def DateTimeOperand.whole (d : DateTimeOperand) : Option DateTime := do
  let year ← d.year
  let month ← d.month
  let day ← d.day
  let hour ← d.hour
  let minute ← d.minute
  let second ← d.second
  some ⟨year, month, day, hour, minute, second⟩

/-- A header metadata record with every part of 10_state.md R30. -/
def MetaOperand.whole (m : MetaOperand) : Option HeaderMeta := do
  let hours ← m.hours
  let baseOperand ← m.base
  let base ← baseOperand.whole
  let latmin ← m.latmin
  let latmax ← m.latmax
  let lonmin ← m.lonmin
  let lonmax ← m.lonmax
  let latstep ← m.latstep
  let lonstep ← m.lonstep
  some ⟨hours, base, latmin, latmax, lonmin, lonmax, latstep, lonstep⟩

/-- A header record with every part of 45_reassembler.md R124. -/
def HeaderOperand.whole (h : HeaderOperand) : Option Header := do
  let hours ← h.hours
  let baseOperand ← h.base
  let base ← baseOperand.whole
  let latmin ← h.latmin
  let latmax ← h.latmax
  let lonmin ← h.lonmin
  let lonmax ← h.lonmax
  let latstep ← h.latstep
  let lonstep ← h.lonstep
  let lat ← h.lat
  let lon ← h.lon
  let shift ← h.shift
  let payload ← h.payload
  some ⟨hours, base, latmin, latmax, lonmin, lonmax, latstep, lonstep, lat, lon, shift, payload⟩

/-- A data fragment record with every part of 45_reassembler.md R125. -/
def FragmentOperand.whole (f : FragmentOperand) : Option DataFragment := do
  let index ← f.index
  let shift ← f.shift
  let payload ← f.payload
  some ⟨index, shift, payload⟩

/-- A wind field with every part of 20_memory.md R41. -/
def FieldOperand.whole (F : FieldOperand) : Option WindField := do
  let hours ← F.hours
  let lat ← F.lat
  let lon ← F.lon
  let baseOperand ← F.base
  let base ← baseOperand.whole
  let u ← F.u
  let v ← F.v
  some ⟨hours, lat, lon, base, u, v⟩

/-- The operand `meta` (44_framer.md R100). -/
def metaOf (m : MetaOperand) : Except Err HeaderMeta := requireOperand .metadata m.whole

/-- The operand `F` (44_framer.md R112, 42_quantizer.md R86). -/
def fieldOf (F : FieldOperand) : Except Err WindField := requireOperand .F F.whole

/-- The operand `hdr` (45_reassembler.md R126, R128): a header record, whose shift is 0 to 9 by 00_scope.md R20 and
45_reassembler.md R124 (that a larger one is outside its domain is DEDUCED, unsafe; log 12). Nothing else is asked of a whole record:
one with no hours, an empty axis or a date that is not valid, which PARSEHDR never answers, is taken as it is (DEDUCED, unsafe; log
27). -/
def headerOf (h : HeaderOperand) : Except Err Header :=
  requireOperand .hdr (h.whole.filter fun r => decide (r.shift ≤ 9))

/-- One record of `frs`: its index is 1 or more and its shift 0 to 9 by 00_scope.md R20 and 45_reassembler.md R125 (that
others are outside its domain is DEDUCED, unsafe; log 12). Nothing else is asked of a whole record (DEDUCED, unsafe; log 27). -/
def dataFragmentOf (f : FragmentOperand) : Except Err DataFragment :=
  requireOperand .frs (f.whole.filter fun r => decide (1 ≤ r.index) && decide (r.shift ≤ 9))

/-- The operand `frs` (45_reassembler.md R126). -/
def fragmentsOf (frs : List FragmentOperand) : Except Err (List DataFragment) :=
  frs.mapM dataFragmentOf

/-! ## Records as the port carries them when no part is missing -/

/-- A whole date and time as a port record. -/
def DateTimeOperand.of (d : DateTime) : DateTimeOperand :=
  ⟨some d.year, some d.month, some d.day, some d.hour, some d.minute, some d.second⟩

/-- A whole header metadata record as a port record. -/
def MetaOperand.of (m : HeaderMeta) : MetaOperand :=
  ⟨some m.hours, some (.of m.base), some m.latmin, some m.latmax, some m.lonmin, some m.lonmax, some m.latstep,
    some m.lonstep⟩

/-- A whole header record as a port record. -/
def HeaderOperand.of (h : Header) : HeaderOperand :=
  ⟨some h.hours, some (.of h.base), some h.latmin, some h.latmax, some h.lonmin, some h.lonmax, some h.latstep,
    some h.lonstep, some h.lat, some h.lon, some h.shift, some h.payload⟩

/-- A whole data fragment record as a port record. -/
def FragmentOperand.of (f : DataFragment) : FragmentOperand :=
  ⟨some f.index, some f.shift, some f.payload⟩

/-- A whole wind field as a port record. -/
def FieldOperand.of (F : WindField) : FieldOperand :=
  ⟨some F.hours, some F.lat, some F.lon, some (.of F.base), some F.u, some F.v⟩

end Sys2Proof.Machine
end

