-- ==== Sys2Proof/Machine/Flags.lean ====
section
/-! DEFINITION. The status word (spec/10_state.md R32), the codes of its fields (R27, 60_exceptions.md R135), and the
computation of the two warning flags (10_state.md R33, 44_framer.md R108). -/

namespace Sys2Proof.Machine

/-- The value of STATE (10_state.md R27); 6 and 7 are never produced (R28). -/
def SeqState.bits : SeqState → BitVec 3
  | .idle => 0
  | .sending => 1
  | .done => 2
  | .exhausted => 3
  | .faulted => 4
  | .cancelled => 5

/-- The value of RESULT (10_state.md R27); 3 is never produced (R32). -/
def RunResult.bits : RunResult → BitVec 2
  | .none => 0
  | .true => 1
  | .false => 2

/-- The number of an error code (60_exceptions.md R135). -/
def ErrCode.bits : ErrCode → BitVec 4
  | .none => 0
  | .alphabetError => 1
  | .malformedHeader => 2
  | .malformedFragment => 3
  | .gridSizeMismatch => 4
  | .retryExhausted => 5
  | .shiftRange => 6
  | .invalidSample => 7
  | .invalidField => 8
  | .frameOverflow => 9
  | .duplicateIndex => 10
  | .illegalCommand => 11
  | .cancelled => 12
  | .operandRange => 13

/-- The code of an error (60_exceptions.md R135). -/
def Err.code : Err → ErrCode
  | .alphabetError _ _ _ => .alphabetError
  | .malformedHeader _ => .malformedHeader
  | .malformedFragment _ => .malformedFragment
  | .gridSizeMismatch _ _ => .gridSizeMismatch
  | .retryExhausted _ => .retryExhausted
  | .shiftRange _ => .shiftRange
  | .invalidSample _ _ _ => .invalidSample
  | .invalidField _ => .invalidField
  | .frameOverflow _ => .frameOverflow
  | .duplicateIndex _ => .duplicateIndex
  | .illegalCommand _ => .illegalCommand
  | .operandRange _ => .operandRange

/-- STATUS (10_state.md R32), by the expression of 44_framer.md R116: bits [3] and [31:16] read 0. -/
def State.statusWord (s : State) : Word :=
  s.state.bits.setWidth 32 ||| (s.result.bits.setWidth 32 <<< 4) ||| ((BitVec.ofBool s.warnLat).setWidth 32 <<< 6) |||
    ((BitVec.ofBool s.warnLon).setWidth 32 <<< 7) ||| (s.shift.setWidth 32 <<< 8) ||| (s.err.bits.setWidth 32 <<< 12)

/-- The step of an axis: its second point less its first (44_framer.md R108). An axis of fewer than two points has none and
no caller asks for it (44_framer.md R107 point 3). -/
def axisStep : List F64 → F64
  | a :: b :: _ => F64.sub b a
  | _ => F64.zero

/-- The steps of an axis after the first, as START compares them (44_framer.md R108: i in 1..n−2). -/
def laterSteps : List F64 → List F64
  | a :: b :: xs => F64.sub b a :: laterSteps (b :: xs)
  | _ => []

/-- Whether an axis is irregular: some later step is off the first by more than CFG.SPACING_TOL (44_framer.md R108). -/
def irregularAxis (cfg : Cfg) (axis : List F64) : Bool :=
  (laterSteps (axis.drop 1)).any fun d => F64.lt cfg.spacingTol (F64.abs (F64.sub d (axisStep axis)))

end Sys2Proof.Machine
end

