-- ==== Sys2Proof/Machine/Ops.lean ====
section
/-! DEFINITION. The operations every command is built from: giving an answer, raising an error, ending an encode with an
error, and reset. There is no memory and no trap (spec/20_memory.md R39, 60_exceptions.md R141): reporting an error
(R134, R137) stands where a processor takes an exception, and there is no return from one (R142). -/

namespace Sys2Proof.Machine

/-- What a step or a meaning answers. -/
abbrev Result := Host.Outcome State Fault Refusal

/-- The next state `t` of a block whose configuration is that of `s`; a configuration that is not legal is refused
(93_implementation_defined.md I7). -/
def guarded (s t : State) : Result :=
  if s.cfg.legal then .next t else .refused .illegalConfiguration

/-- `return v`: v goes out on the result port (00_scope.md R18). -/
def State.answer (s : State) (v : Value) : State := { s with out := .ok v }

/-- `raise e`: the command ends with Err(e) on the result port and no register changes (60_exceptions.md R134, R137). -/
def State.raise (s : State) (e : Err) : State := { s with out := .err e }

/-- `Fault(e)` of 44_framer.md R111: an error that ends an encode is also written to STATE, RESULT and ERR. -/
def State.fault (s : State) (e : Err) : State :=
  { s with state := .faulted, result := .false, err := e.code, out := .err e }

/-- `Emit(e)` (00_scope.md R18, 10_state.md R35). -/
def State.emit (s : State) (e : Event) : State := { s with txlog := s.txlog ++ [e] }

/-- The result of a pure operation, out on the result port. -/
def State.finish (s : State) : Except Err Value → State
  | .ok v => s.answer v
  | .error e => s.raise e

/-- A command of the datapath, the decode engine or the readers: it changes nothing but the result port (00_scope.md R10,
R11; 60_exceptions.md R137). -/
def datapath (s : State) (r : Except Err Value) : Result := guarded s (s.finish r)

/-- The sequencer registers and TXLOG at their reset values; CFG and the ports stay (70_reset_and_hazards.md R152, 10_state.md
R38; the ports and META: log 17, log 6). -/
def State.afterReset (s : State) : State :=
  { s with
    state := .idle, shift := 0, index := 0, cursor := 0, count := 0, nsym := 0, syms := [], header := resetHeader,
    txbuf := [], result := .none, err := .none, warnLat := false, warnLon := false, txlog := [] }

/-- A block with another configuration, reset (70_reset_and_hazards.md R153). -/
def State.builtWith (s : State) (cfg : Cfg) : State := { s.afterReset with cfg := cfg }

end Sys2Proof.Machine
end

