-- ==== Sys2Proof/Machine/Alphabet.lean ====
section
/-! DEFINITION. The alphabet-rotation encoder and decoder (spec/41_alphabet.md): ENCSYM, DECSYM, ENCSTR and DECSTR. -/

namespace Sys2Proof.Machine

/-- `CHR(s, k)`: the text of a symbol at a shift (30_encoding.md R65, 41_alphabet.md R76). A legal configuration has 122 safe
characters and 6 pairs, so neither default is reached under one. -/
def encodeSymbol (cfg : Cfg) (s : Sym) (k : Nat) : Text :=
  if s.toNat ≤ 121 then [cfg.safeSet.getD ((s.toNat + k) % 122) escMark]
  else cfg.escTable.getD (s.toNat - 122) []

/-- The place of a two-character text in ESC_TABLE (41_alphabet.md R77). -/
def escapeIndex (cfg : Cfg) (pair : Text) : Option Nat := cfg.escTable.findIdx? fun e => decide (e = pair)

/-- The place of a character in SAFE_SET (41_alphabet.md R77). -/
def safeIndex (cfg : Cfg) (c : Char) : Option Nat := cfg.safeSet.findIdx? fun d => sameChar d c

/-- DECSYM at the head of a text: the symbol and how many characters it took, or why not (41_alphabet.md R77). -/
def decodeHead (cfg : Cfg) (k : Nat) : Text → Except AlphabetReason (Sym × Nat)
  | [] => .error .endOfText
  | c :: rest =>
    if sameChar c escMark then
      match rest with
      | [] => .error .truncatedEscape
      | d :: _ =>
        match escapeIndex cfg [c, d] with
        | some i => .ok (BitVec.ofNat 7 (122 + i), 2)
        | none => .error .unknownEscape
    else
      match safeIndex cfg c with
      | some j => .ok (BitVec.ofNat 7 ((j + 122 - k) % 122), 1)
      | none => .error .unknownChar

/-- DECSYM of the text t at the cursor p (41_alphabet.md R77). -/
def decodeSymbol (cfg : Cfg) (t : Text) (p k : Nat) : Except Err (Sym × Nat) :=
  match decodeHead cfg k (t.drop p) with
  | .ok r => .ok r
  | .error reason => .error (.alphabetError none p reason)

/-- ENCSTR: the texts of the symbols in order (41_alphabet.md R78). -/
def encodeText (cfg : Cfg) (ss : List Sym) (k : Nat) : Text := ss.flatMap fun s => encodeSymbol cfg s k

/-- The loop of DECSTR on what is left of the text, at position p; each turn takes a character at least, so the length of
the text is fuel enough (41_alphabet.md R79). -/
def decodeLoop (cfg : Cfg) (k : Nat) : Nat → Nat → Text → Except (Nat × AlphabetReason) (List Sym)
  | 0, _, _ => .ok []
  | fuel + 1, p, t =>
    if t = [] then .ok []
    else
      match decodeHead cfg k t with
      | .error reason => .error (p, reason)
      | .ok (s, n) =>
        match decodeLoop cfg k fuel (p + n) (t.drop n) with
        | .ok ss => .ok (s :: ss)
        | .error e => .error e

/-- DECSTR: the symbols of a payload line, or the first position that fails and why (41_alphabet.md R79). -/
def decodeText (cfg : Cfg) (t : Text) (k : Nat) : Except (Nat × AlphabetReason) (List Sym) :=
  decodeLoop cfg k t.length 0 t

/-- ENCSYM (41_alphabet.md R76). -/
def execEncsym (value : Sym) (shift : BitVec 4) (s : State) : Result :=
  datapath s do
    let k ← shiftOf s.cfg shift
    pure (.text (encodeSymbol s.cfg value k))

/-- DECSYM (41_alphabet.md R77). -/
def execDecsym (shift : BitVec 4) (s : State) : Result :=
  datapath s do
    let k ← shiftOf s.cfg shift
    let r ← decodeSymbol s.cfg s.port.t s.port.p k
    pure (.symbol r.1 r.2)

/-- ENCSTR (41_alphabet.md R78). -/
def execEncstr (shift : BitVec 4) (s : State) : Result :=
  datapath s do
    let k ← shiftOf s.cfg shift
    let ss ← symbolsOf .ss s.port.ss
    pure (.text (encodeText s.cfg ss k))

/-- DECSTR (41_alphabet.md R79). -/
def execDecstr (shift : BitVec 4) (s : State) : Result :=
  datapath s do
    let k ← shiftOf s.cfg shift
    match decodeText s.cfg s.port.t k with
    | .ok ss => pure (.symbols ss)
    | .error (p, reason) => throw (.alphabetError none p reason)

end Sys2Proof.Machine
end

