-- ==== Sys2Proof/Machine/BitPacker.lean ====
section
/-! DEFINITION. The fixed-width bit-packer (spec/43_bitpacker.md): PACK, GROUP, SYMBITS, SPLIT and UNPACK. Bit order is most
significant bit first (20_memory.md R45). -/

namespace Sys2Proof.Machine

/-- `bits_w(x)`: the bits of x, most significant first (00_scope.md R15). -/
def bitsMsb {w : Nat} (x : BitVec w) : Bits := (List.range w).map fun i => x.getMsbD i

/-- `val(b)`: the number a bit string writes, first bit most significant (00_scope.md R15). -/
def valBits (b : Bits) : Nat := b.foldl (fun n x => 2 * n + x.toNat) 0

/-- PACK: all magnitudes in grid order, then all directions (43_bitpacker.md R91). -/
def packSamples (S : List Sample) : Bits :=
  (S.flatMap fun q => bitsMsb q.1) ++ S.flatMap fun q => bitsMsb q.2

/-- A window of 7 bits, filled with zeros on the right (43_bitpacker.md R92). -/
def padWindow (b : Bits) : Bits := b ++ List.replicate (7 - b.length) false

/-- The windows of GROUP, the fuel no less than their number. -/
def groupLoop : Nat → Bits → List Sym
  | 0, _ => []
  | fuel + 1, b =>
    if b = [] then []
    else BitVec.ofNat 7 (valBits (padWindow (b.take 7))) :: groupLoop fuel (b.drop 7)

/-- GROUP: consecutive 7-bit windows, the last zero-padded on the right (43_bitpacker.md R92). -/
def groupBits (b : Bits) : List Sym := groupLoop b.length b

/-- SYMBITS: 7 bits for each symbol (43_bitpacker.md R93). -/
def symbolBits (ss : List Sym) : Bits := ss.flatMap fun s => bitsMsb s

/-- The nibbles of SPLIT, the fuel no less than their number. -/
def splitLoop : Nat → Bits → List Nib
  | 0, _ => []
  | fuel + 1, b =>
    if b.length < 4 then [] else BitVec.ofNat 4 (valBits (b.take 4)) :: splitLoop fuel (b.drop 4)

/-- SPLIT: 4 bits at a time, a shorter last group discarded (43_bitpacker.md R94). -/
def splitBits (b : Bits) : List Nib := splitLoop b.length b

/-- UNPACK: the count must be 2N or 2N + 1; nibble c pairs with nibble N + c (43_bitpacker.md R95). -/
def unpackNibbles (nb : List Nib) (N : Nat) : Except Err (List Sample) :=
  if nb.length = 2 * N ∨ nb.length = 2 * N + 1 then .ok ((nb.take N).zip ((nb.drop N).take N))
  else .error (.gridSizeMismatch nb.length N)

/-- PACK (43_bitpacker.md R91). -/
def execPack (s : State) : Result :=
  datapath s do
    let S ← samplesOf .S s.port.S
    pure (.bits (packSamples S))

/-- GROUP (43_bitpacker.md R92). -/
def execGroup (s : State) : Result :=
  datapath s do
    let b ← bitsOf .b s.port.b
    pure (.symbols (groupBits b))

/-- SYMBITS (43_bitpacker.md R93). -/
def execSymbits (s : State) : Result :=
  datapath s do
    let ss ← symbolsOf .ss s.port.ss
    pure (.bits (symbolBits ss))

/-- SPLIT (43_bitpacker.md R94). -/
def execSplit (s : State) : Result :=
  datapath s do
    let b ← bitsOf .b s.port.b
    pure (.nibbles (splitBits b))

/-- UNPACK (43_bitpacker.md R95). -/
def execUnpack (s : State) : Result :=
  datapath s do
    let nb ← nibblesOf .nb s.port.nb
    let S ← unpackNibbles nb s.port.N
    pure (.samples S)

end Sys2Proof.Machine
end

