-- ==== Sys2Proof/Machine/Framer.lean ====
section
/-! DEFINITION. The fragment framer (spec/44_framer.md sections 1 and 2): HDRFMT and FRAG. -/

namespace Sys2Proof.Machine

/-- Lines 1 to 5 of the header fragment, each with its `NL` (44_framer.md R100, 30_encoding.md R68). R100 raises nothing for a date
part too wide for its field, and all its digits are written (DEDUCED, unsafe; log 25). -/
def headerLines (m : HeaderMeta) (k : Nat) : Text :=
  joinTexts [','] (m.hours.map dec) ++ [nl] ++ dateTimeLine m.base ++ [nl] ++
    floatText m.latmin ++ [','] ++ floatText m.latmax ++ [','] ++ floatText m.lonmin ++ [','] ++
    floatText m.lonmax ++ [nl] ++ floatText m.latstep ++ [','] ++ floatText m.lonstep ++ [nl] ++ dec k ++ [nl]

/-- Every real of a header metadata record is finite (44_framer.md R100). -/
def realsFinite (m : HeaderMeta) : Bool :=
  m.latmin.isFinite && m.latmax.isFinite && m.lonmin.isFinite && m.lonmax.isFinite && m.latstep.isFinite &&
    m.lonstep.isFinite

/-- HDRFMT at a shift of 0 to 9 (44_framer.md R100). -/
def formatHeader (m : HeaderMeta) (k : Nat) : Except Err Text :=
  if m.hours ≠ [] ∧ realsFinite m then .ok (headerLines m k) else .error (.operandRange .metadata)

/-- The metadata line of a data fragment with its `NL` (44_framer.md R101). -/
def dataLine (index k : Nat) : Text := dec index ++ [','] ++ dec k ++ [nl]

/-- The greedy fill of FRAG: the payload of the symbols that fit after `used` counted characters, and how many they are
(44_framer.md R102). -/
def fillPayload (cfg : Cfg) (k used : Nat) : List Sym → Text × Nat
  | [] => ([], 0)
  | s :: ss =>
    let t := encodeSymbol cfg s k
    if used + t.length ≤ cfg.maxPayload then
      let r := fillPayload cfg k (used + t.length) ss
      (t ++ r.1, r.2 + 1)
    else ([], 0)

/-- What the cap counts before the payload (44_framer.md R103). -/
def countedBefore (cfg : Cfg) (lines : Text) : Nat :=
  match cfg.capScope with
  | .whole => lines.length
  | .payload => 0

/-- The fragment after its metadata lines are known: payload line, `NL`, and `END` when no symbol is left (44_framer.md
R102). -/
def fragmentText (cfg : Cfg) (k : Nat) (lines : Text) (ss : List Sym) (cur : Nat) : Text × Nat :=
  let r := fillPayload cfg k (countedBefore cfg lines) (ss.drop cur)
  (lines ++ r.1 ++ [nl] ++ (if cur + r.2 = ss.length then endToken else []), r.2)

/-- FRAG at a shift of 0 to 9 (44_framer.md R102). `record` is read only when the index is 0. -/
def buildFragment (cfg : Cfg) (index k : Nat) (ss : List Sym) (cur : Nat) (record : Except Err HeaderMeta) :
    Except Err (Text × Nat) :=
  if ss.length < cur then .error (.operandRange .cur)
  else if index = 0 then do
    let m ← record
    let lines ← formatHeader m k
    pure (fragmentText cfg k lines ss cur)
  else .ok (fragmentText cfg k (dataLine index k) ss cur)

/-- HDRFMT (44_framer.md R100). -/
def execHdrfmt (shift : BitVec 4) (s : State) : Result :=
  datapath s do
    let k ← shiftOf s.cfg shift
    let m ← metaOf s.port.metadata
    let t ← formatHeader m k
    pure (.text t)

/-- FRAG (44_framer.md R102). -/
def execFrag (shift : BitVec 4) (s : State) : Result :=
  datapath s do
    let k ← shiftOf s.cfg shift
    let ss ← symbolsOf .ss s.port.ss
    let r ← buildFragment s.cfg s.port.index k ss s.port.cur (metaOf s.port.metadata)
    pure (.fragment r.1 r.2)

end Sys2Proof.Machine
end

