-- ==== Sys2Proof/Machine/Quantizer.lean ====
section
/-! DEFINITION. The wind-magnitude/direction quantizer and dequantizer (spec/42_quantizer.md): QUANT, DEQUANT and QFIELD. -/

namespace Sys2Proof.Machine

/-- q of QUANT: |wind| in knots over 5, left to right (42_quantizer.md R83). -/
def magnitudeQuotient (cfg : Cfg) (u v : F64) : F64 :=
  F64.div (F64.mul (cfgHypot cfg u v) cfg.ktPerMs) (F64.ofInt 5)

/-- a of QUANT: the angle in units of π/8 (42_quantizer.md R83). -/
def directionQuotient (cfg : Cfg) (u v : F64) : F64 := F64.div (cfgAtan2 cfg v u) F64.pi8

/-- The magnitude bucket of a rounded quotient (42_quantizer.md R83). -/
def magnitudeBucket (n : Int) : Nib := BitVec.ofNat 4 (clip n 0 15).toNat

/-- The direction bucket of a rounded quotient: (n + 16) mod 16, which is never negative (42_quantizer.md R83, 00_scope.md R17). -/
def directionBucket (n : Int) : Nib := BitVec.ofNat 4 ((n + 16) % 16).toNat

/-- QUANT of one vector; `none` where u, v, q or a is not finite (42_quantizer.md R83, D9). -/
def quantize (cfg : Cfg) (u v : F64) : Option Sample :=
  if u.isFinite && v.isFinite then
    match magnitudeQuotient cfg u v, directionQuotient cfg u v with
    | .fin s m, .fin t n =>
      some (magnitudeBucket (roundI cfg.roundTies s m.val), directionBucket (roundI cfg.roundTies t n.val))
    | _, _ => none
  else none

/-- DEQUANT: the bucket centre of a sample, in the order of evaluation of 42_quantizer.md R85. -/
def dequantize (cfg : Cfg) (mag dir : Nib) : F64 × F64 :=
  let s := F64.div (F64.ofInt (5 * mag.toNat)) cfg.ktPerMs
  let th := F64.div (F64.mul (F64.ofInt dir.toNat) F64.pi) (F64.ofInt 8)
  (F64.mul s (cfgCos cfg th), F64.mul s (cfgSin cfg th))

/-- QUANT of the cells from number c on; the first that fails raises InvalidSample(c, u, v) (42_quantizer.md R86). -/
def quantizeCells (cfg : Cfg) (c : Nat) : List (F64 × F64) → Except Err (List Sample)
  | [] => .ok []
  | (u, v) :: cells =>
    match quantize cfg u v with
    | none => .error (.invalidSample (some c) u v)
    | some q =>
      match quantizeCells cfg (c + 1) cells with
      | .ok S => .ok (q :: S)
      | .error e => .error e

/-- N, the cell count of a field (20_memory.md R42). -/
def fieldCells (F : WindField) : Nat := F.hours.length * F.lat.length * F.lon.length

/-- QFIELD: every cell in the order of 20_memory.md R42 (42_quantizer.md R86). -/
def quantizeField (cfg : Cfg) (F : WindField) : Except Err (List Sample) :=
  if F.u.length = fieldCells F ∧ F.v.length = fieldCells F then quantizeCells cfg 0 (F.u.zip F.v)
  else .error (.invalidField .cellCount)

/-- QUANT (42_quantizer.md R83). -/
def execQuant (s : State) : Result :=
  datapath s
    (match quantize s.cfg s.port.u s.port.v with
    | some (mag, dir) => .ok (.sample mag dir)
    | none => .error (.invalidSample none s.port.u s.port.v))

/-- DEQUANT (42_quantizer.md R85). -/
def execDequant (mag dir : Nib) (s : State) : Result :=
  datapath s (.ok (.vector (dequantize s.cfg mag dir).1 (dequantize s.cfg mag dir).2))

/-- QFIELD (42_quantizer.md R86). -/
def execQfield (s : State) : Result :=
  datapath s do
    let F ← fieldOf s.port.F
    let S ← quantizeField s.cfg F
    pure (.samples S)

end Sys2Proof.Machine
end

