-- ==== Sys2Proof/Machine/Reassembler.lean ====
section
/-! DEFINITION. The decode engine (spec/45_reassembler.md): RAWSPLIT, PARSEHDR, PARSEFRAG, REASM, AXES, BUILD and DECODE. -/

namespace Sys2Proof.Machine

/-- RAWSPLIT: the lines of the joined texts, blank lines and `END` lines dropped (45_reassembler.md R123). -/
def survivingLines (ts : List Text) : List Text :=
  (linesOf (joinTexts [nl] ts)).filter fun r => decide (r ≠ []) && decide (r ≠ endToken)

/-- How many points AXES gives: RoundI(r) + 1, or `none` where the axis is malformed (45_reassembler.md R127). -/
def axisCount (cfg : Cfg) (lo hi step : F64) : Option Nat :=
  if lo.isFinite && hi.isFinite && step.isFinite && F64.lt F64.zero step then
    match F64.div (F64.sub hi lo) step with
    | .fin s m => if roundI cfg.roundTies s m.val + 1 < 1 then none else some (roundI cfg.roundTies s m.val + 1).toNat
    | _ => none
  else none

/-- The n points of an axis, n ≥ 1: evenly spaced, the last one exactly hi (45_reassembler.md R127). -/
def axisPoints (lo hi : F64) (n : Nat) : List F64 :=
  if n = 1 then [lo]
  else
    (List.range n).map fun i =>
      if i = n - 1 then hi
      else F64.add (F64.mul (F64.ofInt i) (F64.div (F64.sub hi lo) (F64.ofInt (n - 1 : Nat)))) lo

/-- AXES; `none` stands for MalformedHeader(Axis) (45_reassembler.md R127). -/
def regenerateAxis (cfg : Cfg) (lo hi step : F64) : Option (List F64) :=
  (axisCount cfg lo hi step).map fun n => axisPoints lo hi n

/-- A value, or MalformedHeader(reason). -/
def orHeader {α : Type} (reason : HeaderReason) : Option α → Except Err α
  | some x => .ok x
  | none => .error (.malformedHeader reason)

/-- A line of exactly four reals (45_reassembler.md R124). -/
def parseFour (t : Text) : Option (F64 × F64 × F64 × F64) :=
  match parseList parseReal t with
  | some [a, b, c, d] => some (a, b, c, d)
  | _ => none

/-- A line of exactly two reals (45_reassembler.md R124). -/
def parseTwo (t : Text) : Option (F64 × F64) :=
  match parseList parseReal t with
  | some [a, b] => some (a, b)
  | _ => none

/-- A received shift: a natural of at most 9 (45_reassembler.md R124). -/
def parseShift (t : Text) : Option Nat := (parseNat t).filter fun k => decide (k ≤ 9)

/-- PARSEHDR: the first six lines, the first failing reason in the order of 45_reassembler.md R124. -/
def parseHeader (cfg : Cfg) : List Text → Except Err Header
  | l1 :: l2 :: l3 :: l4 :: l5 :: l6 :: _ => do
    let hours ← orHeader .hours (parseList parseNat l1)
    let base ← orHeader .dateTime (parseDateTime l2)
    let box ← orHeader .boundingBox (parseFour l3)
    let spacing ← orHeader .spacing (parseTwo l4)
    let shift ← orHeader .shift (parseShift l5)
    let lat ← orHeader .latAxis (regenerateAxis cfg box.1 box.2.1 spacing.1)
    let lon ← orHeader .lonAxis (regenerateAxis cfg box.2.2.1 box.2.2.2 spacing.2)
    pure ⟨hours, base, box.1, box.2.1, box.2.2.1, box.2.2.2, spacing.1, spacing.2, lat, lon, shift, l6⟩
  | _ => .error (.malformedHeader .lineCount)

/-- The metadata line of a data fragment: two naturals and a comma (45_reassembler.md R125). -/
def parseIndexShift (t : Text) : Option (Nat × Nat) :=
  match parseList parseNat t with
  | some [index, shift] => some (index, shift)
  | _ => none

/-- PARSEFRAG: the first two lines (45_reassembler.md R125). -/
def parseFragment : List Text → Except Err DataFragment
  | l1 :: l2 :: _ =>
    match parseIndexShift l1 with
    | none => .error (.malformedFragment .metadata)
    | some (index, shift) =>
      if index = 0 then .error (.malformedFragment .index)
      else if 9 < shift then .error (.malformedFragment .shift)
      else .ok ⟨index, shift, l2⟩
  | _ => .error (.malformedFragment .unpaired)

/-- The smallest number that stands twice in a list (45_reassembler.md R126). -/
def smallestRepeated (ns : List Nat) : Option Nat := (ns.filter fun n => decide (1 < ns.count n)).min?

/-- A fragment in its place in a list sorted by index, before those of its own index: they arrived after it. -/
def insertByIndex (f : DataFragment) : List DataFragment → List DataFragment
  | [] => [f]
  | g :: gs => if f.index ≤ g.index then f :: g :: gs else g :: insertByIndex f gs

/-- The fragments sorted by index, ascending and stable (45_reassembler.md R126). -/
def sortByIndex : List DataFragment → List DataFragment
  | [] => []
  | f :: fs => insertByIndex f (sortByIndex fs)

/-- The bits of one fragment, decoded at its own shift (45_reassembler.md R126). -/
def payloadBits (cfg : Cfg) (index k : Nat) (payload : Text) : Except Err Bits :=
  match decodeText cfg payload k with
  | .ok ss => .ok (symbolBits ss)
  | .error (p, reason) => .error (.alphabetError (some index) p reason)

/-- The bits of the fragments of a list, in its order; the first that fails to decode is the error. -/
def joinPayloads (cfg : Cfg) : List DataFragment → Except Err Bits
  | [] => .ok []
  | f :: fs =>
    match payloadBits cfg f.index f.shift f.payload with
    | .error e => .error e
    | .ok b =>
      match joinPayloads cfg fs with
      | .error e => .error e
      | .ok bs => .ok (b ++ bs)

/-- REASM (45_reassembler.md R126). -/
def reassemble (cfg : Cfg) (hdr : Header) (frs : List DataFragment) : Except Err Bits :=
  match smallestRepeated (frs.map fun f => f.index) with
  | some n => .error (.duplicateIndex n)
  | none => do
    let b ← payloadBits cfg 0 hdr.shift hdr.payload
    let bs ← joinPayloads cfg (sortByIndex frs)
    pure (b ++ bs)

/-- N of a header record: hours times latitudes times longitudes (45_reassembler.md R128, D49). -/
def headerCells (hdr : Header) : Nat := hdr.hours.length * hdr.lat.length * hdr.lon.length

/-- BUILD (45_reassembler.md R128). -/
def rebuildField (cfg : Cfg) (hdr : Header) (bits : Bits) : Except Err RebuiltField := do
  let S ← unpackNibbles (splitBits bits) (headerCells hdr)
  let vectors := S.map fun q => dequantize cfg q.1 q.2
  pure {
    hours := hdr.hours
    base := hdr.base
    lat := hdr.lat
    lon := hdr.lon
    M := S.map Prod.fst
    D := S.map Prod.snd
    u := vectors.map Prod.fst
    v := vectors.map Prod.snd
    bbox := (hdr.latmin, hdr.latmax, hdr.lonmin, hdr.lonmax)
    spacing := (hdr.latstep, hdr.lonstep) }

/-- The vector of hour h, row i, column j of a reconstructed field, the two-dimensional grids of 20_memory.md R43: cell
(h × NLAT + i) × NLON + j. -/
def gridVector (F : RebuiltField) (h i j : Nat) : Option (F64 × F64) :=
  if h < F.hours.length ∧ i < F.lat.length ∧ j < F.lon.length then
    (F.u.zip F.v)[(h * F.lat.length + i) * F.lon.length + j]?
  else none

/-- The data fragments of the lines after the header, paired in text order; the first bad pair is the error
(45_reassembler.md R129). -/
def parsePairs : List Text → Except Err (List DataFragment)
  | l1 :: l2 :: rest =>
    match parseFragment [l1, l2] with
    | .error e => .error e
    | .ok f =>
      match parsePairs rest with
      | .error e => .error e
      | .ok fs => .ok (f :: fs)
  | _ => .ok []

/-- DECODE (45_reassembler.md R129): the header, then the pairing of the rest, then REASM and BUILD. -/
def decodeCorpus (cfg : Cfg) (ts : List Text) : Except Err RebuiltField := do
  let ls := survivingLines ts
  let hdr ← parseHeader cfg ls
  let rest := ls.drop 6
  if rest.length % 2 = 1 then throw (.malformedFragment .unpaired)
  else do
    let frs ← parsePairs rest
    let bits ← reassemble cfg hdr frs
    rebuildField cfg hdr bits

/-- RAWSPLIT (45_reassembler.md R123). -/
def execRawsplit (s : State) : Result := datapath s (.ok (.lines (survivingLines s.port.ts)))

/-- PARSEHDR (45_reassembler.md R124). -/
def execParsehdr (s : State) : Result :=
  datapath s do
    let h ← parseHeader s.cfg s.port.ls
    pure (.header h)

/-- PARSEFRAG (45_reassembler.md R125). -/
def execParsefrag (s : State) : Result :=
  datapath s do
    let f ← parseFragment s.port.ls
    pure (.dataFragment f)

/-- REASM (45_reassembler.md R126). -/
def execReasm (s : State) : Result :=
  datapath s do
    let hdr ← headerOf s.port.hdr
    let frs ← fragmentsOf s.port.frs
    let b ← reassemble s.cfg hdr frs
    pure (.bits b)

/-- AXES (45_reassembler.md R127). -/
def execAxes (s : State) : Result :=
  datapath s do
    let xs ← orHeader .axis (regenerateAxis s.cfg s.port.lo s.port.hi s.port.step)
    pure (.axis xs)

/-- BUILD (45_reassembler.md R128). -/
def execBuild (s : State) : Result :=
  datapath s do
    let hdr ← headerOf s.port.hdr
    let b ← bitsOf .bits s.port.bits
    let F ← rebuildField s.cfg hdr b
    pure (.field F)

/-- DECODE (45_reassembler.md R129). -/
def execDecode (s : State) : Result :=
  datapath s do
    let F ← decodeCorpus s.cfg s.port.ts
    pure (.field F)

end Sys2Proof.Machine
end

