-- ==== Sys2Proof/Machine/Sequencer.lean ====
section
/-! DEFINITION. The encode sequencer (spec/44_framer.md sections 3 and 4): START, SENDACK, CANCEL, RDSTAT and RDIDX. -/

namespace Sys2Proof.Machine

/-! ## Preparing an encode -/

/-- A strictly ascending axis (44_framer.md R107 point 5). -/
def axisAscending : List F64 → Bool
  | a :: b :: xs => F64.lt a b && axisAscending (b :: xs)
  | _ => true

/-- Strictly ascending hours (44_framer.md R107 point 2). -/
def hoursAscending : List Nat → Bool
  | a :: b :: xs => decide (a < b) && hoursAscending (b :: xs)
  | _ => true

/-- The first reason START refuses a field for, in the order of 44_framer.md R107. -/
def fieldDefect (F : WindField) : Option FieldReason :=
  if F.hours = [] then some .noHours
  else if !hoursAscending F.hours then some .hoursOrder
  else if F.lat.length < 2 ∨ F.lon.length < 2 then some .axisLength
  else if !(F.lat.all F64.isFinite && F.lon.all F64.isFinite) then some .axisValue
  else if !(axisAscending F.lat && axisAscending F.lon) then some .axisOrder
  else if !F.base.valid then some .baseTime
  else if ¬(F.u.length = fieldCells F ∧ F.v.length = fieldCells F) then some .cellCount
  else none

/-- META of a legal field (44_framer.md R108, R109). -/
def fieldMeta (F : WindField) : HeaderMeta where
  hours := F.hours
  base := F.base
  latmin := F.lat.headD F64.zero
  latmax := F.lat.getLastD F64.zero
  lonmin := F.lon.headD F64.zero
  lonmax := F.lon.getLastD F64.zero
  latstep := axisStep F.lat
  lonstep := axisStep F.lon

/-! ## The send loop -/

/-- `Render()` of 44_framer.md R111 in the state s: the next Send, or the encode ends in FrameOverflow (R110). Where FRAG
itself raises, which is OperandRange for a header real that is not finite or ShiftRange, the command leaves the state
`before` it as it was, as 60_exceptions.md R137 says of those two errors from any command (DEDUCED, unsafe; log 11). -/
def State.render (s before : State) : State :=
  match
    (do
      let k ← shiftOf s.cfg s.shift
      buildFragment s.cfg s.index k s.syms s.cursor (.ok s.header) : Except Err (Text × Nat)) with
  | .error e => before.raise e
  | .ok (t, n) =>
    if n = 0 then s.fault (.frameOverflow s.index)
    else { s with txbuf := t, count := n, state := .sending, txlog := s.txlog ++ [.send t], out := .ok .none }

/-- What START clears before it looks at the field (44_framer.md R112). -/
def State.cleared (s : State) : State :=
  { s with
    shift := 0, index := 0, cursor := 0, count := 0, nsym := 0, syms := [], txbuf := [], result := .none, err := .none,
    warnLat := false, warnLon := false }

/-- META and the warning flags of a legal field (44_framer.md R108, R109). -/
def State.withField (s : State) (F : WindField) : State :=
  { s with header := fieldMeta F, warnLat := irregularAxis s.cfg F.lat, warnLon := irregularAxis s.cfg F.lon }

/-- SYMS and NSYM of a sample sequence (44_framer.md R112). -/
def State.withSamples (s : State) (S : List Sample) : State :=
  { s with syms := groupBits (packSamples S), nsym := (groupBits (packSamples S)).length }

/-- START of a complete field outside SENDING (44_framer.md R112). -/
def State.begin (s : State) (F : WindField) : State :=
  match fieldDefect F with
  | some reason => s.cleared.fault (.invalidField reason)
  | none =>
    match quantizeField s.cfg F with
    | .error e => (s.cleared.withField F).fault e
    | .ok S => ((s.cleared.withField F).withSamples S).render s

/-- START (44_framer.md R112); the state check comes before the operand's (60_exceptions.md R140). -/
def State.startNext (s : State) : State :=
  if s.state = .sending then s.raise (.illegalCommand .busy)
  else
    match fieldOf s.port.F with
    | .error e => s.raise e
    | .ok F => s.begin F

/-- SENDACK 1 in SENDING (44_framer.md R113). -/
def State.accepted (s : State) : State :=
  if s.cursor + s.count = s.nsym then
    { s.emit (.ack true) with cursor := s.cursor + s.count, state := .done, result := .true, out := .ok .none }
  else
    State.render { s.emit (.ack true) with cursor := s.cursor + s.count, index := s.index + 1, shift := 0 } s

/-- SENDACK 0 in SENDING (44_framer.md R113). -/
def State.rejected (s : State) : State :=
  if (s.shift + 1).toNat = s.cfg.shiftLimit then
    { s.emit (.ack false) with
      shift := s.shift + 1, state := .exhausted, result := .false, err := .retryExhausted,
      out := .err (.retryExhausted s.index) }
  else State.render { s.emit (.ack false) with shift := s.shift + 1 } s

/-- SENDACK (44_framer.md R113). -/
def State.sendackNext (s : State) (ok : Bool) : State :=
  if s.state ≠ .sending then s.raise (.illegalCommand .notSending)
  else if ok then s.accepted
  else s.rejected

/-- CANCEL (44_framer.md R115). -/
def State.cancelNext (s : State) : State :=
  if s.state = .sending then
    { s with state := .cancelled, result := .false, err := .cancelled, out := .ok .none }
  else s.answer .none

/-- START (44_framer.md R112). -/
def execStart (s : State) : Result := guarded s s.startNext

/-- SENDACK (44_framer.md R113). -/
def execSendack (ok : Bool) (s : State) : Result := guarded s (s.sendackNext ok)

/-- CANCEL (44_framer.md R115). -/
def execCancel (s : State) : Result := guarded s s.cancelNext

/-- RDSTAT (44_framer.md R116). -/
def execRdstat (s : State) : Result := datapath s (.ok (.status s.statusWord))

/-- RDIDX (44_framer.md R117). -/
def execRdidx (s : State) : Result := datapath s (.ok (.position s.index s.cursor s.count s.nsym))

end Sys2Proof.Machine
end

