-- ==== Sys2Proof/Machine/Dispatch.lean ====
section
/-! DEFINITION. The meaning of every command, one arm per row of spec/opcode_table.json. -/

namespace Sys2Proof.Machine

/-- The meaning of a legal command, its operands on the operand port of `s` (30_encoding.md R58, R61). -/
def exec (i : Instr) (s : State) : Host.Outcome State Fault Refusal :=
  match i with
  | .rdstat => Sys2Proof.Machine.execRdstat s
  | .rdidx => Sys2Proof.Machine.execRdidx s
  | .encsym value shift => Sys2Proof.Machine.execEncsym value shift s
  | .decsym shift => Sys2Proof.Machine.execDecsym shift s
  | .encstr shift => Sys2Proof.Machine.execEncstr shift s
  | .decstr shift => Sys2Proof.Machine.execDecstr shift s
  | .quant => Sys2Proof.Machine.execQuant s
  | .dequant mag dir => Sys2Proof.Machine.execDequant mag dir s
  | .qfield => Sys2Proof.Machine.execQfield s
  | .pack => Sys2Proof.Machine.execPack s
  | .group => Sys2Proof.Machine.execGroup s
  | .split => Sys2Proof.Machine.execSplit s
  | .unpack => Sys2Proof.Machine.execUnpack s
  | .symbits => Sys2Proof.Machine.execSymbits s
  | .hdrfmt shift => Sys2Proof.Machine.execHdrfmt shift s
  | .frag shift => Sys2Proof.Machine.execFrag shift s
  | .start => Sys2Proof.Machine.execStart s
  | .sendack ok => Sys2Proof.Machine.execSendack ok s
  | .cancel => Sys2Proof.Machine.execCancel s
  | .rawsplit => Sys2Proof.Machine.execRawsplit s
  | .parsehdr => Sys2Proof.Machine.execParsehdr s
  | .parsefrag => Sys2Proof.Machine.execParsefrag s
  | .reasm => Sys2Proof.Machine.execReasm s
  | .axes => Sys2Proof.Machine.execAxes s
  | .build => Sys2Proof.Machine.execBuild s
  | .decode => Sys2Proof.Machine.execDecode s

end Sys2Proof.Machine
end

