-- ==== Sys2Proof/Machine/Fetch.lean ====
section
/-! DEFINITION. How a command reaches the block: there is no program counter and no fetch (spec/10_state.md R22, 20_memory.md
R54), so the host's next act stands in `pending` and the step takes the first. -/

namespace Sys2Proof.Machine

/-- The block with the rest of the host's acts still to come. -/
def State.afterAct (s : State) (rest : List HostAct) : State := { s with pending := rest }

/-- The block with a command's operands on the operand port (30_encoding.md R57). -/
def State.withOperands (s : State) (operands : Port) (rest : List HostAct) : State :=
  { s with port := operands, pending := rest }

/-- The table's word as a command word: its bits above `nbits` are 0. -/
def tableWord (nbits w : Nat) : Word := BitVec.ofNat 32 (w % 2 ^ nbits)

/-- The host's next act is to present this word, with the operands that stand on the port now (log 1). -/
def State.present (s : State) (w : Word) : State := { s with pending := .command w s.port :: s.pending }

/-- The host's answer to a Send: SENDACK 1 or SENDACK 0 (44_framer.md R113), which reads no operand. -/
def answerAct (operands : Port) (ok : Bool) : HostAct := .command (if ok then 0x00000143 else 0x00000043) operands

/-- START and then an answer for each of a list, whatever STATE is: what a host presents that does not look at STATE. The
pseudo-instruction that does is `encodeActs` of Machine/Encode.lean. -/
def startAndAnswers (operands : Port) (answers : List Bool) : List HostAct :=
  .command 0x00000042 operands :: answers.map (answerAct operands)

end Sys2Proof.Machine
end

