-- ==== Sys2Proof/Machine/Step.lean ====
section
/-! DEFINITION. One step of the block: the host's next act, taken whole (spec/20_memory.md R50). -/

namespace Sys2Proof.Machine

/-- One step. With no act pending the block holds every register (60_exceptions.md R144, R151; log 16). A command's operands go
on the port, its word is decoded, and its meaning runs; an illegal word raises IllegalCommand(word) and changes no register
(30_encoding.md R59, 60_exceptions.md R138). A reset and a build do what 70_reset_and_hazards.md R152 and R153 say. -/
def step (s : State) : Host.Outcome State Fault Refusal :=
  match s.pending with
  | [] => .next s
  | .command w operands :: rest =>
    match decode w with
    | .ok i => exec i (s.withOperands operands rest)
    | .error _ =>
      guarded s ((s.withOperands operands rest).raise (.illegalCommand (.word w)))
  | .reset :: rest => guarded s (s.afterAct rest).afterReset
  | .build cfg :: rest =>
    guarded (s.builtWith cfg) ((s.afterAct rest).builtWith cfg)

/-- The state whose very next step runs the instruction of the table's bits: the host presents it (log 1). -/
def State.withFetchWord (s : State) (nbits w : Nat) : State := s.present (tableWord nbits w)

end Sys2Proof.Machine
end

