-- ==== Sys2Proof/Machine/Encode.lean ====
section
/-! DEFINITION. The pseudo-instruction ENCODE (spec/30_encoding.md R74): what it expands to from a state, and what it yields. -/

namespace Sys2Proof.Machine

/-- The answers ENCODE presents from a state, one for each Send while STATE = SENDING; `answers` is what the transport callback
answers, in order (30_encoding.md R74). -/
def answersWhileSending (operands : Port) : State → List Bool → List HostAct
  | _, [] => []
  | s, ok :: answers =>
    if s.state = .sending then
      match exec (.sendack ok) s with
      | .next t => answerAct operands ok :: answersWhileSending operands t answers
      | _ => []
    else []

/-- `ENCODE ; F=…` (30_encoding.md R74): START, then one SENDACK for each Send while STATE = SENDING. A START that is refused
because an encode is under way sends nothing, so nothing of ENCODE answers for it (DEDUCED, safe; log 22). -/
def encodeActs (s : State) (operands : Port) (answers : List Bool) : List HostAct :=
  .command 0x00000042 operands ::
    if s.state = .sending then []
    else
      match exec .start { s with port := operands } with
      | .next t => answersWhileSending operands t answers
      | _ => []

/-- What ENCODE yields in the state it ends in: RESULT = TRUE as true, RESULT = FALSE as false, and nothing before there is a
RESULT (30_encoding.md R74). -/
def encodeYield (s : State) : Option Bool :=
  match s.result with
  | .none => none
  | .true => some true
  | .false => some false

end Sys2Proof.Machine
end

