-- ==== Sys2Proof/Safety.lean ====
section
/-! DEFINITION. What counts as a good state and a finished run, in the terms the statements use: the invariant of the sequencer, the
end of a run (spec/70_reset_and_hazards.md R154), what a run observes, and the named properties of the four configuration
functions (10_state.md R26). -/

namespace Sys2Proof.Machine

/-! ## The invariant of the sequencer -/

/-- RESULT and ERR as STATE says (10_state.md R27, R28; 60_exceptions.md R137; 93_implementation_defined.md I16). -/
def State.outcomeAgrees (s : State) : Prop :=
  match s.state with
  | .idle => s.result = .none ∧ s.err = .none
  | .sending => s.result = .none ∧ s.err = .none
  | .done => s.result = .true ∧ s.err = .none ∧ s.cursor = s.nsym
  | .exhausted => s.result = .false ∧ s.err = .retryExhausted
  | .faulted =>
    s.result = .false ∧ (s.err = .invalidField ∨ s.err = .invalidSample ∨ s.err = .frameOverflow)
  | .cancelled => s.result = .false ∧ s.err = .cancelled

/-- What holds while the block waits for an answer: the fragment in TXBUF is the one its registers describe, it carries
at least one symbol, and it is the last event (44_framer.md R111 to R113; 10_state.md R31, R34). -/
def State.awaitsAnswer (s : State) : Prop :=
  1 ≤ s.count ∧ s.cursor + s.count ≤ s.nsym ∧ s.shift.toNat ≤ 9 ∧
    buildFragment s.cfg s.index s.shift.toNat s.syms s.cursor (.ok s.header) = .ok (s.txbuf, s.count) ∧
    s.txlog.getLast? = some (.send s.txbuf)

/-- The invariant of the sequencer (10_state.md R27, R28, R31). -/
structure State.Inv (s : State) : Prop where
  /-- CFG is legal (70_reset_and_hazards.md R153). -/
  legal : s.cfg.legal = true
  /-- NSYM is the length of SYMS (10_state.md R27). -/
  nsymIsLength : s.nsym = s.syms.length
  /-- CURSOR is 0 to NSYM (10_state.md R27). -/
  cursorInRange : s.cursor ≤ s.nsym
  /-- COUNT is 0 to MAX_PAYLOAD (10_state.md R27). -/
  countInRange : s.count ≤ 120
  /-- SHIFT is 0 to 10 (10_state.md R27). -/
  shiftInRange : s.shift.toNat ≤ 10
  /-- SHIFT is 10 in EXHAUSTED and nowhere else (10_state.md R31). -/
  shiftTen : s.shift.toNat = 10 ↔ s.state = .exhausted
  /-- RESULT and ERR follow STATE. -/
  outcome : s.outcomeAgrees
  /-- A block that waits has something to wait for. -/
  waiting : s.state = .sending → s.awaitsAnswer

/-- An encode run is over (70_reset_and_hazards.md R154). -/
def SeqState.ended : SeqState → Bool
  | .done => true
  | .exhausted => true
  | .faulted => true
  | .cancelled => true
  | .idle => false
  | .sending => false

/-! ## What a run observes -/

/-- The events a state has beyond those of an earlier one (70_reset_and_hazards.md R154). -/
def eventsSince (s t : State) : List Event := t.txlog.drop s.txlog.length

/-- The texts of the accepted fragments of a history, each a Send whose answer was success: the last Send of each fragment
index (44_framer.md R113; 45_reassembler.md R132). -/
def acceptedTexts : List Event → List Text
  | .send t :: .ack true :: es => t :: acceptedTexts es
  | _ :: es => acceptedTexts es
  | [] => []

/-- The texts of every Send of a history, in order. -/
def sentTexts : List Event → List Text
  | .send t :: es => t :: sentTexts es
  | .ack _ :: es => sentTexts es
  | [] => []

/-- A command that is no sequencer command (00_scope.md R10): everything but START, SENDACK and CANCEL. -/
def isPure : Instr → Bool
  | .rdstat => true
  | .rdidx => true
  | .encsym _ _ => true
  | .decsym _ => true
  | .encstr _ => true
  | .decstr _ => true
  | .quant => true
  | .dequant _ _ => true
  | .qfield => true
  | .pack => true
  | .group => true
  | .split => true
  | .unpack => true
  | .symbits => true
  | .hdrfmt _ => true
  | .frag _ => true
  | .start => false
  | .sendack _ => false
  | .cancel => false
  | .rawsplit => true
  | .parsehdr => true
  | .parsefrag => true
  | .reasm => true
  | .axes => true
  | .build => true
  | .decode => true

/-- The next act of the host is a START, a reset or a build. -/
def nextActRestarts (s : State) : Prop :=
  match s.pending with
  | .command w _ :: _ => decode w = .ok .start
  | .reset :: _ => True
  | .build _ :: _ => True
  | [] => False

/-- The lines of a fragment before its payload (30_encoding.md R68, R69). -/
def metadataLines (index k : Nat) (m : HeaderMeta) : Text :=
  if index = 0 then headerLines m k else dataLine index k

/-- The texts of a message, fragment by fragment: `shifts` lists the shift each was accepted at (45_reassembler.md R132). A
fragment takes the symbols the one before it left. -/
def messageTexts (cfg : Cfg) (m : HeaderMeta) (ss : List Sym) : Nat → Nat → List Nat → List Text
  | _, _, [] => []
  | index, cur, k :: ks =>
    (fragmentText cfg k (metadataLines index k m) ss cur).1 ::
      messageTexts cfg m ss (index + 1) (cur + (fragmentText cfg k (metadataLines index k m) ss cur).2) ks

/-- The cursor after the fragments of `messageTexts` (44_framer.md R113, R121). -/
def messageCursor (cfg : Cfg) (m : HeaderMeta) (ss : List Sym) : Nat → Nat → List Nat → Nat
  | _, cur, [] => cur
  | index, cur, k :: ks =>
    messageCursor cfg m ss (index + 1) (cur + (fragmentText cfg k (metadataLines index k m) ss cur).2) ks

/-! ## The checks of START -/

/-- Strictly ascending binary64 values. -/
def ascendingReals (xs : List F64) : Prop := xs.Pairwise fun a b => F64.lt a b = true

/-- A valid date and time of day, as 30_encoding.md R72 spells it out. -/
def validDateTime (d : DateTime) : Prop :=
  (1 ≤ d.year ∧ d.year ≤ 9999) ∧ (1 ≤ d.month ∧ d.month ≤ 12) ∧
    (1 ≤ d.day ∧
      d.day ≤
        if d.month ∈ [1, 3, 5, 7, 8, 10, 12] then 31
        else if d.month ∈ [4, 6, 9, 11] then 30
        else if (4 ∣ d.year ∧ ¬100 ∣ d.year) ∨ 400 ∣ d.year then 29 else 28) ∧
      d.hour ≤ 23 ∧ d.minute ≤ 59 ∧ d.second ≤ 59

/-- What START asks of a field for one reason, as 44_framer.md R107 lists it. -/
def fieldMeets (F : WindField) : FieldReason → Prop
  | .noHours => F.hours ≠ []
  | .hoursOrder => F.hours.Pairwise fun a b => a < b
  | .axisLength => 2 ≤ F.lat.length ∧ 2 ≤ F.lon.length
  | .axisValue => ∀ x ∈ F.lat ++ F.lon, x.isFinite = true
  | .axisOrder => ascendingReals F.lat ∧ ascendingReals F.lon
  | .baseTime => validDateTime F.base
  | .cellCount =>
    F.u.length = F.hours.length * F.lat.length * F.lon.length ∧
      F.v.length = F.hours.length * F.lat.length * F.lon.length

/-- The reasons in the order of 44_framer.md R107. -/
def fieldReasons : List FieldReason :=
  [.noHours, .hoursOrder, .axisLength, .axisValue, .axisOrder, .baseTime, .cellCount]

/-- The first reason a field fails, the ones before it met (44_framer.md R107). -/
def firstDefect (F : WindField) (reason : FieldReason) : Prop :=
  ∃ met later, fieldReasons = met ++ reason :: later ∧ (∀ r ∈ met, fieldMeets F r) ∧ ¬fieldMeets F reason

/-! ## The named properties of the configuration functions (10_state.md R26)

The machine assumes none of them: a statement that needs one names it. They are stated of finite operands, the only ones
QUANT and DEQUANT give (DESIGN CHOICE, safe; log 26). -/

/-- The exact value of a finite binary64; 0 for the others. -/
def exactValue : F64 → ℚ
  | .fin s m => (F64.signedUnits s m.val : ℚ) / (oneUnits : ℚ)
  | _ => 0

/-- The weight of the last place of a finite binary64. -/
def lastPlace : F64 → ℚ
  | .fin _ m => (2 ^ (m.val / binade - 1) : ℚ) / (oneUnits : ℚ)
  | _ => 0

/-- The largest finite binary64. -/
def largestFinite : ℚ := exactValue (f64OfCode false (f64InfCode - 1))

/-- A binary64 lies within one unit in its last place of a real. P3 of 10_state.md R26 does not say whose last place the unit is of,
the result's or the true value's; the result's is taken here (DESIGN CHOICE, unsafe; log 24). -/
def withinOnePlace (x : F64) (r : ℝ) : Prop :=
  x.isFinite = true ∧ |((exactValue x : ℚ) : ℝ) - r| ≤ ((lastPlace x : ℚ) : ℝ)

/-- (P1): HYPOT is not negative, and not finite only where its true value overflows. P1 of 10_state.md R26 does not say from which
real on a true value overflows; here it is every real above the largest finite binary64, the rounding midpoint of `fl` (log 23) or not
(DESIGN CHOICE, safe; log 26). -/
def hypotSound (cfg : Cfg) : Prop :=
  ∀ x y : F64, x.isFinite = true → y.isFinite = true →
    F64.le F64.zero (cfgHypot cfg x y) = true ∧
      ((cfgHypot cfg x y).isFinite = false → ((largestFinite : ℚ) : ℝ) < Real.sqrt ((exactValue x ^ 2 + exactValue y ^ 2 : ℚ) : ℝ))

/-- (P2): ATAN2 lies in [−PI, PI]. -/
def atan2InRange (cfg : Cfg) : Prop :=
  ∀ y x : F64, y.isFinite = true → x.isFinite = true →
    F64.le (F64.neg F64.pi) (cfgAtan2 cfg y x) = true ∧ F64.le (cfgAtan2 cfg y x) F64.pi = true

/-- −0. -/
def negZero : F64 := F64.neg F64.zero

/-- ATAN2 at one point is within one unit in the last place of the true value, the angle of (x, y). At −0 and a negative x the
sign of the zero may say −π, so either end of the range counts (DEDUCED, safe; log 21). -/
def atan2Sound (cfg : Cfg) (y x : F64) : Prop :=
  withinOnePlace (cfgAtan2 cfg y x) (Complex.arg ⟨((exactValue x : ℚ) : ℝ), ((exactValue y : ℚ) : ℝ)⟩) ∨
    (y = negZero ∧ exactValue x < 0 ∧ withinOnePlace (cfgAtan2 cfg y x) (-Real.pi))

/-- (P3): each function is within one unit in the last place of its true value, wherever it has a finite one; the last place is the
result's (DESIGN CHOICE, unsafe; log 24), and a true value of HYPOT above the largest finite binary64 overflows, as in (P1) (DESIGN
CHOICE, safe; log 26). (0, 0) has no angle: (P4) speaks of it. -/
def withinOneUlp (cfg : Cfg) : Prop :=
  (∀ x y : F64, x.isFinite = true → y.isFinite = true →
      Real.sqrt ((exactValue x ^ 2 + exactValue y ^ 2 : ℚ) : ℝ) ≤ ((largestFinite : ℚ) : ℝ) →
        withinOnePlace (cfgHypot cfg x y) (Real.sqrt ((exactValue x ^ 2 + exactValue y ^ 2 : ℚ) : ℝ))) ∧
    (∀ y x : F64, y.isFinite = true → x.isFinite = true → ¬(exactValue y = 0 ∧ exactValue x = 0) →
      atan2Sound cfg y x) ∧
    ∀ x : F64, x.isFinite = true →
      withinOnePlace (cfgSin cfg x) (Real.sin ((exactValue x : ℚ) : ℝ)) ∧
        withinOnePlace (cfgCos cfg x) (Real.cos ((exactValue x : ℚ) : ℝ))

/-- (P4): ATAN2 of two zeros, by their signs. -/
def atan2OfZeros (cfg : Cfg) : Prop :=
  cfgAtan2 cfg F64.zero F64.zero = F64.zero ∧ cfgAtan2 cfg negZero F64.zero = negZero ∧
    cfgAtan2 cfg F64.zero negZero = F64.pi ∧ cfgAtan2 cfg negZero negZero = F64.neg F64.pi

end Sys2Proof.Machine
end

