-- ==== Sys2Proof/WellFormed.lean ====
section
/-! DEFINITION. Which command words are legal (spec/30_encoding.md R59), read from the match and mask of each row of
spec/opcode_table.json and from nothing of the decoder: the statements hold the two readings against each other. An `Instr` needs
no check of its own, since its fields have exactly the widths of R56. -/

namespace Sys2Proof

/-- One row of the opcode table: a word belongs to it when its bits under `mask` are those of `pat` (30_encoding.md R61). -/
structure OpRow where
  mnemonic : String
  pat : Word
  mask : Word
  deriving DecidableEq, Repr

/-- Whether a word belongs to a row. -/
def OpRow.holds (r : OpRow) (w : Word) : Bool :=
  w &&& r.mask == r.pat

/-- The opcode table (30_encoding.md R58), its masks covering OP and every reserved bit (R56). -/
def opcodeTable : List OpRow :=
  [⟨"RDSTAT", 0x00000001, 0xFFFFFFFF⟩,
   ⟨"RDIDX", 0x00000002, 0xFFFFFFFF⟩,
   ⟨"ENCSYM", 0x00000010, 0xFFF080FF⟩,
   ⟨"DECSYM", 0x00000011, 0xFFF0FFFF⟩,
   ⟨"ENCSTR", 0x00000012, 0xFFF0FFFF⟩,
   ⟨"DECSTR", 0x00000013, 0xFFF0FFFF⟩,
   ⟨"QUANT", 0x00000020, 0xFFFFFFFF⟩,
   ⟨"DEQUANT", 0x00000021, 0xFFF0F0FF⟩,
   ⟨"QFIELD", 0x00000022, 0xFFFFFFFF⟩,
   ⟨"PACK", 0x00000030, 0xFFFFFFFF⟩,
   ⟨"GROUP", 0x00000031, 0xFFFFFFFF⟩,
   ⟨"SPLIT", 0x00000032, 0xFFFFFFFF⟩,
   ⟨"UNPACK", 0x00000033, 0xFFFFFFFF⟩,
   ⟨"SYMBITS", 0x00000034, 0xFFFFFFFF⟩,
   ⟨"HDRFMT", 0x00000040, 0xFFF0FFFF⟩,
   ⟨"FRAG", 0x00000041, 0xFFF0FFFF⟩,
   ⟨"START", 0x00000042, 0xFFFFFFFF⟩,
   ⟨"SENDACK", 0x00000043, 0xFFFFFEFF⟩,
   ⟨"CANCEL", 0x00000044, 0xFFFFFFFF⟩,
   ⟨"RAWSPLIT", 0x00000050, 0xFFFFFFFF⟩,
   ⟨"PARSEHDR", 0x00000051, 0xFFFFFFFF⟩,
   ⟨"PARSEFRAG", 0x00000052, 0xFFFFFFFF⟩,
   ⟨"REASM", 0x00000053, 0xFFFFFFFF⟩,
   ⟨"AXES", 0x00000054, 0xFFFFFFFF⟩,
   ⟨"BUILD", 0x00000055, 0xFFFFFFFF⟩,
   ⟨"DECODE", 0x00000056, 0xFFFFFFFF⟩]

/-- A word is legal when some row holds of it: its OP is defined and no reserved bit of that opcode is 1 (30_encoding.md R59). -/
def wordLegal (w : Word) : Bool :=
  opcodeTable.any fun r => r.holds w

/-- The opcodes the table defines (30_encoding.md R58). -/
def opcodeDefined (op : BitVec 8) : Bool :=
  opcodeTable.any fun r => r.pat.extractLsb' 0 8 == op

end Sys2Proof
end

