-- ==== Sys2Proof/Certificates/Slice0/Obligations.lean ====
section
/-! DEFINITION. The statements for the provers, from the numbered rules of spec/. A statement that names an exact next state
`{ s with … }` is a frame as well: every field it does not name is that of `s`. -/

section Statements

open Sys2Proof Sys2Proof.Machine

/-! ## The command word -/

/-- Decoding an encoded command gives it back, with every field at every value (30_encoding.md R55, R56, R58). -/
def Obligations.DecodeEncode : Prop :=
  ∀ i : Instr, decode (encode i) = .ok i

/-- A legal word has one reading and no bit of it is dropped (30_encoding.md R56, R61). -/
def Obligations.EncodeDecode : Prop :=
  ∀ (w : Word) (i : Instr), decode w = .ok i → encode i = w

/-- The decoder against the opcode table: it accepts a word exactly when a row holds of it, an undefined OP goes before a
reserved bit, no word belongs to two rows, and a command's word belongs to its own row (30_encoding.md R58, R59, R61). -/
def Obligations.DecodeFollowsTable : Prop :=
  (∀ w : Word,
    ((∃ i, decode w = .ok i) ↔ wordLegal w = true) ∧
      (decode w = .error .undefinedOpcode ↔ opcodeDefined (w.extractLsb' 0 8) = false) ∧
        (decode w = .error .reservedBit ↔ opcodeDefined (w.extractLsb' 0 8) = true ∧ wordLegal w = false) ∧
          (opcodeTable.filter fun r => r.holds w).length ≤ 1) ∧
    ∀ i : Instr, (opcodeTable.filter fun r => r.holds (encode i)).map OpRow.mnemonic = [mnemonicOf i]

/-- Words the spec writes out (30_encoding.md R58, R73). -/
def Obligations.SampleWords : Prop :=
  decode 0x00037A10 = .ok (.encsym 122 3) ∧ decode 0x00020321 = .ok (.dequant 3 2) ∧
    decode 0x00000143 = .ok (.sendack true) ∧ decode 0x00040013 = .ok (.decstr 4) ∧
    decode 0x00000020 = .ok .quant ∧ decode 0x00000001 = .ok .rdstat ∧ decode 0x00000034 = .ok .symbits ∧
    decode 0x00000056 = .ok .decode

/-! ## The step -/

/-- A step takes the host's next act: it runs the decoded command with its operands on the port, or holds when there is none,
and the word `withFetchWord` places is the one that runs (20_memory.md R50; 60_exceptions.md R144). Loading a legal configuration
resets the block with it (70_reset_and_hazards.md R152, R153), and a configuration that is not legal is refused. The model's
choices here: the list `pending` (log 1) and the hold when it is empty (log 16); that META takes its reset value and the ports
stay in a build (log 6, log 17); and that a wrong fixed value or a bad tolerance is refused as R153 and I7 refuse a bad table (log
13). -/
def Obligations.StepTakesNextAct : Prop :=
  (∀ (s : State) (w : Word) (operands : Port) (rest : List HostAct) (i : Instr),
    s.pending = .command w operands :: rest → decode w = .ok i →
      step s = exec i { s with port := operands, pending := rest }) ∧
    (∀ (s : State) (nbits w : Nat) (i : Instr),
      decodeTableWord nbits w = some i → step (s.withFetchWord nbits w) = exec i s) ∧
    (∀ s : State, s.pending = [] → step s = .next s) ∧
    (∀ (s : State) (cfg : Cfg) (rest : List HostAct), s.pending = .build cfg :: rest →
      step s =
        if cfg.legal then .next { s.afterReset with cfg := cfg, pending := rest }
        else .refused .illegalConfiguration) ∧
    ∀ (s : State) (i : Instr), s.cfg.legal = false → exec i s = .refused .illegalConfiguration

/-- What reset leaves: the registers of 10_state.md R38 at its values, CFG as it was. -/
def Obligations.ResetRegisters : Prop :=
  (∀ (s : State) (rest : List HostAct), s.cfg.legal = true → s.pending = .reset :: rest →
    ∃ t, step s = .next t ∧ t.state = .idle ∧ t.shift = 0 ∧ t.index = 0 ∧ t.cursor = 0 ∧ t.count = 0 ∧
      t.nsym = 0 ∧ t.syms = [] ∧ t.txbuf = [] ∧ t.result = .none ∧ t.err = .none ∧ t.warnLat = false ∧
      t.warnLon = false ∧ t.txlog = [] ∧ t.cfg = s.cfg ∧ t.pending = rest) ∧
    State.reset.state = .idle ∧ State.reset.shift = 0 ∧ State.reset.index = 0 ∧ State.reset.cursor = 0 ∧
    State.reset.count = 0 ∧ State.reset.nsym = 0 ∧ State.reset.syms = [] ∧ State.reset.txbuf = [] ∧
    State.reset.result = .none ∧ State.reset.err = .none ∧ State.reset.warnLat = false ∧
    State.reset.warnLon = false ∧ State.reset.txlog = []

/-- The three cases of IllegalCommand, none of which changes a register or adds an event, and no command that runs raises it
in another (60_exceptions.md R138). -/
def Obligations.IllegalCommandCases : Prop :=
  (∀ (s : State) (w : Word) (operands : Port) (rest : List HostAct), s.cfg.legal = true →
    s.pending = .command w operands :: rest → wordLegal w = false →
      step s = .next { s with port := operands, pending := rest, out := .err (.illegalCommand (.word w)) }) ∧
    (∀ s : State, s.cfg.legal = true → s.state = .sending →
      exec .start s = .next { s with out := .err (.illegalCommand .busy) }) ∧
    (∀ (s : State) (ok : Bool), s.cfg.legal = true → s.state ≠ .sending →
      exec (.sendack ok) s = .next { s with out := .err (.illegalCommand .notSending) }) ∧
    ∀ (s t : State) (i : Instr) (info : IllegalInfo), exec i s = .next t → t.out = .err (.illegalCommand info) →
      (i = .start ∧ s.state = .sending ∧ info = .busy) ∨
        ∃ ok, i = .sendack ok ∧ s.state ≠ .sending ∧ info = .notSending

/-! ## What commands leave alone -/

/-- No command writes an operand (20_memory.md R44) or CFG (10_state.md R23), and none writes what the host does next, a field of
the model's own (DESIGN CHOICE; log 1). -/
def Obligations.OperandsUntouched : Prop :=
  ∀ (i : Instr) (s t : State), exec i s = .next t → t.port = s.port ∧ t.cfg = s.cfg ∧ t.pending = s.pending

/-- The datapath and the decode engine are pure: a command that is no sequencer command changes nothing but the result port,
and, RDSTAT and RDIDX apart, what it puts there depends on the operands and the configuration alone (00_scope.md R11). -/
def Obligations.DatapathPure : Prop :=
  ∀ (i : Instr) (s t : State), isPure i = true → exec i s = .next t →
    t = { s with out := t.out } ∧
      (i ≠ .rdstat → i ≠ .rdidx → ∀ r : State, r.cfg = s.cfg → r.port = s.port →
        exec i r = .next { r with out := t.out })

/-- Who writes the history, the symbol buffer and the flags: only START and SENDACK add events, at most an Ack and then at
most a Send; only START writes NSYM, SYMS, META and the warning flags; CANCEL writes only STATE, RESULT and ERR (10_state.md
R33, R34, R35; 20_memory.md R51; 44_framer.md R115). -/
def Obligations.SequencerFrame : Prop :=
  ∀ (i : Instr) (s t : State), exec i s = .next t →
    (∃ acks sends : List Event, t.txlog = s.txlog ++ acks ++ sends ∧
      (acks = [] ∨ ∃ ok, i = .sendack ok ∧ s.state = .sending ∧ acks = [.ack ok]) ∧
      (sends = [] ∨ (∃ text, sends = [.send text] ∧ t.txbuf = text ∧ t.state = .sending) ∧
        (i = .start ∨ ∃ ok, i = .sendack ok))) ∧
      (i ≠ .start → t.nsym = s.nsym ∧ t.syms = s.syms ∧ t.header = s.header ∧ t.warnLat = s.warnLat ∧
        t.warnLon = s.warnLon) ∧
      (i = .cancel → t = { s with state := t.state, result := t.result, err := t.err, out := t.out })

/-! ## Reading the sequencer -/

/-- RDSTAT and RDIDX, with every field of STATUS in its place and every code at its number (10_state.md R27, R32; 44_framer.md
R116, R117; 60_exceptions.md R135). -/
def Obligations.ReadersAnswer : Prop :=
  (∀ s : State, s.cfg.legal = true →
    ∃ w : Word, exec .rdstat s = .next { s with out := .ok (.status w) } ∧
      w.extractLsb' 0 3 = s.state.bits ∧ w.getLsbD 3 = false ∧ w.extractLsb' 4 2 = s.result.bits ∧
      w.getLsbD 6 = s.warnLat ∧ w.getLsbD 7 = s.warnLon ∧ w.extractLsb' 8 4 = s.shift ∧
      w.extractLsb' 12 4 = s.err.bits ∧ w.extractLsb' 16 16 = 0) ∧
    (∀ s : State, s.cfg.legal = true →
      exec .rdidx s = .next { s with out := .ok (.position s.index s.cursor s.count s.nsym) }) ∧
    ([SeqState.idle, .sending, .done, .exhausted, .faulted, .cancelled].map fun x => x.bits.toNat) = List.range 6 ∧
    ([RunResult.none, .true, .false].map fun x => x.bits.toNat) = List.range 3 ∧
    ([ErrCode.none, .alphabetError, .malformedHeader, .malformedFragment, .gridSizeMismatch, .retryExhausted,
      .shiftRange, .invalidSample, .invalidField, .frameOverflow, .duplicateIndex, .illegalCommand, .cancelled,
      .operandRange].map fun x => x.bits.toNat) = List.range 14

/-! ## Checks of operands -/

/-- A shift of 10 to 15 raises ShiftRange in each of the six commands that have the field, and changes no state (30_encoding.md
R60). -/
def Obligations.ShiftRangeRaised : Prop :=
  ∀ (s : State) (value : Sym) (shift : BitVec 4), s.cfg.legal = true → 10 ≤ shift.toNat →
    ∀ i ∈ [Instr.encsym value shift, .decsym shift, .encstr shift, .decstr shift, .hdrfmt shift, .frag shift],
      exec i s = .next { s with out := .err (.shiftRange shift.toNat) }

/-- A port value outside its domain raises OperandRange with the operand's name, and the command does nothing else
(60_exceptions.md R139). For START the state check comes first (R140). -/
def Obligations.OperandRangeRaised : Prop :=
  ∀ (s : State), s.cfg.legal = true →
    ((∃ n ∈ s.port.ss, 128 ≤ n) →
      exec .symbits s = .next { s with out := .err (.operandRange .ss) } ∧
        ∀ shift : BitVec 4, shift.toNat ≤ 9 →
          exec (.encstr shift) s = .next { s with out := .err (.operandRange .ss) } ∧
            exec (.frag shift) s = .next { s with out := .err (.operandRange .ss) }) ∧
    ((∃ q ∈ s.port.S, 16 ≤ q.1 ∨ 16 ≤ q.2) → exec .pack s = .next { s with out := .err (.operandRange .S) }) ∧
    ((∃ n ∈ s.port.b, 2 ≤ n) →
      exec .group s = .next { s with out := .err (.operandRange .b) } ∧
        exec .split s = .next { s with out := .err (.operandRange .b) }) ∧
    ((∃ n ∈ s.port.nb, 16 ≤ n) → exec .unpack s = .next { s with out := .err (.operandRange .nb) }) ∧
    (s.port.metadata.whole = none → ∀ shift : BitVec 4, shift.toNat ≤ 9 →
      exec (.hdrfmt shift) s = .next { s with out := .err (.operandRange .metadata) }) ∧
    (s.port.F.whole = none →
      exec .qfield s = .next { s with out := .err (.operandRange .F) } ∧
        (s.state ≠ .sending → exec .start s = .next { s with out := .err (.operandRange .F) })) ∧
    (s.port.hdr.whole = none →
      exec .reasm s = .next { s with out := .err (.operandRange .hdr) } ∧
        exec .build s = .next { s with out := .err (.operandRange .hdr) }) ∧
    (∀ ss : List Sym, s.port.ss = ss.map BitVec.toNat → s.port.cur ≤ ss.length → s.port.index = 0 →
      s.port.metadata.whole = none → ∀ shift : BitVec 4, shift.toNat ≤ 9 →
        exec (.frag shift) s = .next { s with out := .err (.operandRange .metadata) }) ∧
    ∀ hdr : Header, s.port.hdr = HeaderOperand.of hdr → hdr.shift ≤ 9 →
      ((∃ f ∈ s.port.frs, f.whole = none) →
        exec .reasm s = .next { s with out := .err (.operandRange .frs) }) ∧
      ((∃ n ∈ s.port.bits, 2 ≤ n) → exec .build s = .next { s with out := .err (.operandRange .bits) })

/-! ## The alphabet (41_alphabet.md) -/

/-- ENCSYM (30_encoding.md R65, 41_alphabet.md R76). -/
def Obligations.EncsymResult : Prop :=
  ∀ (s : State) (value : Sym) (shift : BitVec 4), s.cfg.legal = true → shift.toNat ≤ 9 →
    ∃ t : Text, exec (.encsym value shift) s = .next { s with out := .ok (.text t) } ∧
      (value.toNat ≤ 121 → ∃ c, s.cfg.safeSet[(value.toNat + shift.toNat) % 122]? = some c ∧ t = [c]) ∧
      (122 ≤ value.toNat → s.cfg.escTable[value.toNat - 122]? = some t ∧ t.length = 2)

/-- DECSYM, its two results and its four reasons (41_alphabet.md R77). -/
def Obligations.DecsymResult : Prop :=
  ∀ (s : State) (shift : BitVec 4), s.cfg.legal = true → shift.toNat ≤ 9 →
    (∀ j c, s.cfg.safeSet[j]? = some c → s.port.t[s.port.p]? = some c →
      exec (.decsym shift) s =
        .next { s with out := .ok (.symbol (BitVec.ofNat 7 ((j + 122 - shift.toNat) % 122)) 1) }) ∧
    (∀ i pair, s.cfg.escTable[i]? = some pair → (s.port.t.drop s.port.p).take 2 = pair →
      exec (.decsym shift) s = .next { s with out := .ok (.symbol (BitVec.ofNat 7 (122 + i)) 2) }) ∧
    (s.port.t.length ≤ s.port.p →
      exec (.decsym shift) s = .next { s with out := .err (.alphabetError none s.port.p .endOfText) }) ∧
    (s.port.t[s.port.p]? = some '@' → s.port.t.length = s.port.p + 1 →
      exec (.decsym shift) s = .next { s with out := .err (.alphabetError none s.port.p .truncatedEscape) }) ∧
    (s.port.t[s.port.p]? = some '@' → s.port.p + 2 ≤ s.port.t.length →
      (s.port.t.drop s.port.p).take 2 ∉ s.cfg.escTable →
        exec (.decsym shift) s = .next { s with out := .err (.alphabetError none s.port.p .unknownEscape) }) ∧
    (∀ c, s.port.t[s.port.p]? = some c → c ≠ '@' → c ∉ s.cfg.safeSet →
      exec (.decsym shift) s = .next { s with out := .err (.alphabetError none s.port.p .unknownChar) })

/-- ENCSTR joins the texts of its symbols, and the length of a text is 1 for a symbol to 121 and 2 from 122 on, at every
shift (30_encoding.md R66; 41_alphabet.md R78). -/
def Obligations.EncstrResult : Prop :=
  (∀ (cfg : Cfg) (x : Sym) (k : Nat), cfg.legal = true → k ≤ 9 →
    (encodeSymbol cfg x k).length = if x.toNat ≤ 121 then 1 else 2) ∧
    ∀ (s : State) (ss : List Sym) (shift : BitVec 4), s.cfg.legal = true → shift.toNat ≤ 9 →
      s.port.ss = ss.map BitVec.toNat →
        ∃ t : Text, exec (.encstr shift) s = .next { s with out := .ok (.text t) } ∧
          t = (ss.map fun x => encodeSymbol s.cfg x shift.toNat).flatten ∧
          t.length = ss.length + (ss.filter fun x => decide (122 ≤ x.toNat)).length

/-- What ENCSYM writes, DECSYM reads (41_alphabet.md R80). -/
def Obligations.SymbolRoundTrip : Prop :=
  ∀ (s t r : State) (x : Sym) (shift : BitVec 4) (text : Text), s.cfg.legal = true → shift.toNat ≤ 9 →
    exec (.encsym x shift) s = .next t → t.out = .ok (.text text) → r.cfg = s.cfg → r.port.t = text →
      r.port.p = 0 → exec (.decsym shift) r = .next { r with out := .ok (.symbol x text.length) }

/-- What ENCSTR writes, DECSTR reads, and at another shift too: there each one-character symbol comes out rotated, each
escape symbol as it was, and no error is raised (41_alphabet.md R81, R82). -/
def Obligations.TextRoundTrip : Prop :=
  ∀ (s : State) (ss : List Sym) (kEnc : Nat) (shift : BitVec 4), s.cfg.legal = true → kEnc ≤ 9 →
    shift.toNat ≤ 9 → s.port.t = encodeText s.cfg ss kEnc →
      exec (.decstr shift) s =
          .next { s with
            out := .ok (.symbols (ss.map fun x =>
              if x.toNat ≤ 121 then BitVec.ofNat 7 ((x.toNat + 122 + kEnc - shift.toNat) % 122) else x)) } ∧
        (shift.toNat = kEnc → exec (.decstr shift) s = .next { s with out := .ok (.symbols ss) })

/-- DECSTR reports the smallest position that fails to decode, with its reason (41_alphabet.md R79). -/
def Obligations.DecstrFirstError : Prop :=
  ∀ (s : State) (ss : List Sym) (shift : BitVec 4) (rest : Text) (reason : AlphabetReason), s.cfg.legal = true →
    shift.toNat ≤ 9 → s.port.t = encodeText s.cfg ss shift.toNat ++ rest → rest ≠ [] →
      decodeHead s.cfg shift.toNat rest = .error reason →
        exec (.decstr shift) s =
          .next { s with
            out := .err (.alphabetError none (encodeText s.cfg ss shift.toNat).length reason) }

/-! ## The quantizer (42_quantizer.md) -/

/-- QUANT: the two buckets of finite quotients, and InvalidSample in every other case (42_quantizer.md R83). -/
def Obligations.QuantResult : Prop :=
  ∀ s : State, s.cfg.legal = true →
    (∀ (sq sa : Bool) (mq ma : Fin f64InfCode), s.port.u.isFinite = true → s.port.v.isFinite = true →
      F64.div (F64.mul (cfgHypot s.cfg s.port.u s.port.v) s.cfg.ktPerMs) (F64.ofInt 5) = .fin sq mq →
      F64.div (cfgAtan2 s.cfg s.port.v s.port.u) F64.pi8 = .fin sa ma →
        ∃ mag dir : Nib, exec .quant s = .next { s with out := .ok (.sample mag dir) } ∧
          (mag.toNat : Int) = clip (roundI s.cfg.roundTies sq mq.val) 0 15 ∧
          (dir.toNat : Int) = (roundI s.cfg.roundTies sa ma.val + 16) % 16) ∧
    (s.port.u.isFinite = false ∨ s.port.v.isFinite = false ∨
      (F64.div (F64.mul (cfgHypot s.cfg s.port.u s.port.v) s.cfg.ktPerMs) (F64.ofInt 5)).isFinite = false ∨
      (F64.div (cfgAtan2 s.cfg s.port.v s.port.u) F64.pi8).isFinite = false →
        exec .quant s = .next { s with out := .err (.invalidSample none s.port.u s.port.v) })

/-- RoundI answers a nearest integer, and where two are as near, the one ROUND_TIES names (00_scope.md R17). Values are in
units of 2^-1074. -/
def Obligations.RoundIntegerNearest : Prop :=
  ∀ (ties : RoundTies) (neg : Bool) (code : Nat),
    |2 * (roundI ties neg code * (oneUnits : Int) - F64.signedUnits neg code)| ≤ (oneUnits : Int) ∧
      (|2 * (roundI ties neg code * (oneUnits : Int) - F64.signedUnits neg code)| = (oneUnits : Int) →
        match ties with
        | .even => 2 ∣ roundI ties neg code
        | .away => |F64.signedUnits neg code| ≤ |roundI ties neg code * (oneUnits : Int)|
        | .up => F64.signedUnits neg code ≤ roundI ties neg code * (oneUnits : Int))

/-- The one rounding of binary64: the answer has the sign asked for, is a nearest value, takes the even one of two as near,
and overflows exactly from half a step past the largest value on (00_scope.md R16). For `fl` the tie and the overflow bound are the
model's, from IEEE 754 (PRESUMED; log 23). -/
def Obligations.RoundingNearestEven : Prop :=
  ∀ (neg : Bool) (num den : Nat), 0 < den →
    (roundUnits neg num den = .inf neg ↔
      den * (unitsOfCode (f64InfCode - 1) + unitsOfCode f64InfCode) ≤ 2 * num) ∧
      (roundUnits neg num den ≠ .inf neg →
        ∃ m : Fin f64InfCode, roundUnits neg num den = .fin neg m ∧
          ∀ n : Nat, n ≤ f64InfCode →
            |(num : Int) - den * unitsOfCode m.val| ≤ |(num : Int) - den * unitsOfCode n| ∧
              (|(num : Int) - den * unitsOfCode m.val| = |(num : Int) - den * unitsOfCode n| → n ≠ m.val →
                m.val % 2 = 0))

/-- DEQUANT: the bucket centre, in the order of evaluation of 42_quantizer.md R85, for every pair of buckets. -/
def Obligations.DequantResult : Prop :=
  ∀ (s : State) (mag dir : Nib), s.cfg.legal = true →
    exec (.dequant mag dir) s =
      .next { s with
        out := .ok (.vector
          (F64.mul (F64.div (F64.ofInt (5 * mag.toNat)) s.cfg.ktPerMs)
            (cfgCos s.cfg (F64.div (F64.mul (F64.ofInt dir.toNat) F64.pi) (F64.ofInt 8))))
          (F64.mul (F64.div (F64.ofInt (5 * mag.toNat)) s.cfg.ktPerMs)
            (cfgSin s.cfg (F64.div (F64.mul (F64.ofInt dir.toNat) F64.pi) (F64.ofInt 8))))) }

/-- QFIELD: the sample of every cell in grid order, or the first error (42_quantizer.md R86; 20_memory.md R42). -/
def Obligations.QfieldResult : Prop :=
  ∀ (s : State) (F : WindField), s.cfg.legal = true → s.port.F = FieldOperand.of F →
    (∀ S : List Sample, S.length = fieldCells F → F.u.length = fieldCells F → F.v.length = fieldCells F →
      (∀ (c : Nat) (u v : F64), F.u[c]? = some u → F.v[c]? = some v → quantize s.cfg u v = S[c]?) →
        exec .qfield s = .next { s with out := .ok (.samples S) }) ∧
    (F.u.length ≠ fieldCells F ∨ F.v.length ≠ fieldCells F →
      exec .qfield s = .next { s with out := .err (.invalidField .cellCount) }) ∧
    (∀ c u v, F.u.length = fieldCells F → F.v.length = fieldCells F → F.u[c]? = some u → F.v[c]? = some v →
      quantize s.cfg u v = none →
      (∀ d x y, d < c → F.u[d]? = some x → F.v[d]? = some y → quantize s.cfg x y ≠ none) →
        exec .qfield s = .next { s with out := .err (.invalidSample (some c) u v) })

/-! ## The bit-packer (43_bitpacker.md) -/

/-- PACK: 8 bits a cell, all magnitudes and then all directions, most significant bit first (30_encoding.md R63). -/
def Obligations.PackLayout : Prop :=
  ∀ (s : State) (S : List Sample), s.cfg.legal = true →
    s.port.S = S.map (fun q => (q.1.toNat, q.2.toNat)) →
      ∃ b : Bits, exec .pack s = .next { s with out := .ok (.bits b) } ∧ b.length = 8 * S.length ∧
        ∀ c q k, S[c]? = some q → k < 4 →
          b[4 * c + (3 - k)]? = some (q.1.getLsbD k) ∧
            b[4 * S.length + 4 * c + (3 - k)]? = some (q.2.getLsbD k)

/-- GROUP: a symbol for every 7 bits, the last filled with zeros on the right (30_encoding.md R64). -/
def Obligations.GroupLayout : Prop :=
  ∀ (s : State) (b : Bits), s.cfg.legal = true → s.port.b = b.map Bool.toNat →
    ∃ ss : List Sym, exec .group s = .next { s with out := .ok (.symbols ss) } ∧ ss.length = (b.length + 6) / 7 ∧
      ∀ j x t, ss[j]? = some x → t < 7 → x.getLsbD (6 - t) = (b[7 * j + t]?).getD false

/-- SYMBITS: 7 bits a symbol, most significant first (43_bitpacker.md R93). -/
def Obligations.SymbitsLayout : Prop :=
  ∀ (s : State) (ss : List Sym), s.cfg.legal = true → s.port.ss = ss.map BitVec.toNat →
    ∃ b : Bits, exec .symbits s = .next { s with out := .ok (.bits b) } ∧ b.length = 7 * ss.length ∧
      ∀ j x t, ss[j]? = some x → t < 7 → b[7 * j + t]? = some (x.getLsbD (6 - t))

/-- SPLIT: a nibble for every whole 4 bits, most significant first (43_bitpacker.md R94). -/
def Obligations.SplitLayout : Prop :=
  ∀ (s : State) (b : Bits), s.cfg.legal = true → s.port.b = b.map Bool.toNat →
    ∃ nb : List Nib, exec .split s = .next { s with out := .ok (.nibbles nb) } ∧ nb.length = b.length / 4 ∧
      ∀ i x t, nb[i]? = some x → t < 4 → b[4 * i + t]? = some (x.getLsbD (3 - t))

/-- UNPACK: nibble c with nibble N + c, a spare last nibble ignored, and GridSizeMismatch for any other count (43_bitpacker.md
R95). -/
def Obligations.UnpackResult : Prop :=
  ∀ (s : State) (nb : List Nib), s.cfg.legal = true → s.port.nb = nb.map BitVec.toNat →
    (nb.length = 2 * s.port.N ∨ nb.length = 2 * s.port.N + 1 →
      ∃ S : List Sample, exec .unpack s = .next { s with out := .ok (.samples S) } ∧ S.length = s.port.N ∧
        ∀ c x y, c < s.port.N → nb[c]? = some x → nb[s.port.N + c]? = some y → S[c]? = some (x, y)) ∧
    (nb.length ≠ 2 * s.port.N → nb.length ≠ 2 * s.port.N + 1 →
      exec .unpack s = .next { s with out := .err (.gridSizeMismatch nb.length s.port.N) })

/-- The bit-packer's round trip (43_bitpacker.md R98), with the symbol and nibble counts of R96 and R97. -/
def Obligations.PackedSamplesSurvive : Prop :=
  ∀ S : List Sample,
    unpackNibbles (splitBits (symbolBits (groupBits (packSamples S)))) S.length = .ok S ∧
      (groupBits (packSamples S)).length = (8 * S.length + 6) / 7 ∧
      (splitBits (symbolBits (groupBits (packSamples S)))).length =
        if S.length % 7 ∈ [1, 2, 3] then 2 * S.length + 1 else 2 * S.length

/-! ## The framer (44_framer.md) -/

/-- HDRFMT: the five metadata lines, or OperandRange for no hour or a real that is not finite (44_framer.md R100). That a date part
too wide for its field is written with all its digits is the model's (DEDUCED; log 25). -/
def Obligations.HdrfmtResult : Prop :=
  ∀ (s : State) (m : HeaderMeta) (shift : BitVec 4), s.cfg.legal = true → shift.toNat ≤ 9 →
    s.port.metadata = MetaOperand.of m →
    (m.hours ≠ [] →
      (∀ x ∈ [m.latmin, m.latmax, m.lonmin, m.lonmax, m.latstep, m.lonstep], x.isFinite = true) →
        exec (.hdrfmt shift) s =
          .next { s with
            out := .ok (.text (joinTexts [nl]
              [joinTexts [','] (m.hours.map dec), dateTimeLine m.base,
                joinTexts [','] [floatText m.latmin, floatText m.latmax, floatText m.lonmin, floatText m.lonmax],
                joinTexts [','] [floatText m.latstep, floatText m.lonstep], dec shift.toNat, []])) }) ∧
    (m.hours = [] ∨
      (∃ x ∈ [m.latmin, m.latmax, m.lonmin, m.lonmax, m.latstep, m.lonstep], x.isFinite = false) →
        exec (.hdrfmt shift) s = .next { s with out := .err (.operandRange .metadata) })

/-- FRAG fills greedily: of the symbols from `cur` on it takes in order as many as fit after its metadata lines, ends the
payload line, and adds END when none is left; a cursor past the end is OperandRange, and so is at index 0 a record HDRFMT refuses
(44_framer.md R101, R102, R103). The model's own: past index 0 the record on the port is not read (DEDUCED; log 15), and a date part
too wide for its field is written with all its digits (DEDUCED; log 25). -/
def Obligations.FragResult : Prop :=
  ∀ (s : State) (ss : List Sym) (m : HeaderMeta) (shift : BitVec 4), s.cfg.legal = true → shift.toNat ≤ 9 →
    s.port.ss = ss.map BitVec.toNat →
    (s.port.cur ≤ ss.length →
      (s.port.index = 0 → s.port.metadata = MetaOperand.of m ∧ m.hours ≠ [] ∧ realsFinite m = true) →
      ∃ (lines : Text) (n : Nat), lines = metadataLines s.port.index shift.toNat m ∧
        exec (.frag shift) s =
          .next { s with
            out := .ok (.fragment
              (lines ++ encodeText s.cfg ((ss.drop s.port.cur).take n) shift.toNat ++ ['\n'] ++
                if s.port.cur + n = ss.length then ['E', 'N', 'D'] else [])
              n) } ∧
        s.port.cur + n ≤ ss.length ∧
        (0 < n →
          (if s.cfg.capScope = .whole then lines.length else 0) +
            (encodeText s.cfg ((ss.drop s.port.cur).take n) shift.toNat).length ≤ 120) ∧
        (s.port.cur + n < ss.length →
          120 <
            (if s.cfg.capScope = .whole then lines.length else 0) +
              (encodeText s.cfg ((ss.drop s.port.cur).take (n + 1)) shift.toNat).length)) ∧
    (ss.length < s.port.cur → exec (.frag shift) s = .next { s with out := .err (.operandRange .cur) }) ∧
    (s.port.cur ≤ ss.length → s.port.index = 0 → s.port.metadata = MetaOperand.of m →
      m.hours = [] ∨ realsFinite m = false →
        exec (.frag shift) s = .next { s with out := .err (.operandRange .metadata) })

/-- Building the same range at another shift gives the same count and a text as long (44_framer.md R106). -/
def Obligations.FragShiftIndependent : Prop :=
  ∀ (s t : State) (shift other : BitVec 4) (text : Text) (n : Nat), shift.toNat ≤ 9 → other.toNat ≤ 9 →
    exec (.frag shift) s = .next t → t.out = .ok (.fragment text n) →
      ∃ text', exec (.frag other) s = .next { s with out := .ok (.fragment text' n) } ∧
        text'.length = text.length

/-- The numerals and the date line the framer writes read back (00_scope.md R19; 30_encoding.md R71, R72). -/
def Obligations.NumeralsReadBack : Prop :=
  (∀ n : Nat, parseNat (dec n) = some n) ∧
    ∀ d : DateTime, validDateTime d → parseDateTime (dateTimeLine d) = some d

/-- What F writes for a finite real, REAL reads back as that real (44_framer.md R99; the sign of a zero by log 10). -/
def Obligations.RealsReadBack : Prop :=
  ∀ x : F64, x.isFinite = true → parseReal (floatText x) = some x

/-- REAL reads digits, a fraction and an exponent as `fl` of the exact decimal value, however many zeros stand in front, and a value
whose `fl` is infinite is malformed (30_encoding.md R72; 00_scope.md R16). The model's own: a zero keeps the numeral's sign (DEDUCED;
log 10), and `fl` takes the even one of two as near and is infinite from IEEE 754's bound on (PRESUMED; log 23). -/
def Obligations.RealValueRead : Prop :=
  ∀ (neg : Bool) (whole frac expo : Text) (e : Int), whole ≠ [] → (∀ c ∈ whole ++ frac, isDigit c = true) →
    parseExponent expo = some e →
      parseReal ((if neg then ['-'] else []) ++ whole ++ (if frac = [] then [] else '.' :: frac) ++ expo) =
        let x := roundUnits neg (natOfDigits (whole ++ frac) * 10 ^ (e - frac.length).toNat * oneUnits)
          (10 ^ (-(e - frac.length)).toNat)
        if x.isFinite then some x else none

/-! ## The sequencer (44_framer.md) -/

/-- START of a field checks it by 44_framer.md R107: the first failed reason is raised and the encode ends in FAULTED, with
the registers of its first step cleared and no Send (44_framer.md R111, R112; 60_exceptions.md R141); and a field that meets every
reason is not refused for one. -/
def Obligations.StartChecksField : Prop :=
  ∀ (s : State) (F : WindField), s.cfg.legal = true → s.state ≠ .sending → s.port.F = FieldOperand.of F →
    (∀ reason, firstDefect F reason →
      exec .start s =
        .next { s with
          shift := 0, index := 0, cursor := 0, count := 0, nsym := 0, syms := [], txbuf := [], warnLat := false,
          warnLon := false, state := .faulted, result := .false, err := .invalidField,
          out := .err (.invalidField reason) }) ∧
    ((∀ reason, fieldMeets F reason) →
      ∃ t, exec .start s = .next t ∧ ∀ reason, t.out ≠ .err (.invalidField reason))

/-- META and the warning flags of a legal field: the ends of each axis bound it, the steps are those of the first two
points, and an axis is irregular when some later step is off by more than the tolerance (44_framer.md R108, R109). -/
def Obligations.HeaderOfLegalField : Prop :=
  ∀ F : WindField, fieldDefect F = none →
    (fieldMeta F).hours = F.hours ∧ (fieldMeta F).base = F.base ∧
    F.lat[0]? = some (fieldMeta F).latmin ∧ F.lat[F.lat.length - 1]? = some (fieldMeta F).latmax ∧
    F.lon[0]? = some (fieldMeta F).lonmin ∧ F.lon[F.lon.length - 1]? = some (fieldMeta F).lonmax ∧
    (∀ x ∈ F.lat, F64.le (fieldMeta F).latmin x = true ∧ F64.le x (fieldMeta F).latmax = true) ∧
    (∀ x ∈ F.lon, F64.le (fieldMeta F).lonmin x = true ∧ F64.le x (fieldMeta F).lonmax = true) ∧
    (∃ a b, F.lat[0]? = some a ∧ F.lat[1]? = some b ∧ (fieldMeta F).latstep = F64.sub b a) ∧
    (∃ a b, F.lon[0]? = some a ∧ F.lon[1]? = some b ∧ (fieldMeta F).lonstep = F64.sub b a) ∧
    ∀ cfg : Cfg,
      (irregularAxis cfg F.lat = true ↔
        ∃ i a b, 1 ≤ i ∧ F.lat[i]? = some a ∧ F.lat[i + 1]? = some b ∧
          F64.lt cfg.spacingTol (F64.abs (F64.sub (F64.sub b a) (fieldMeta F).latstep)) = true) ∧
      (irregularAxis cfg F.lon = true ↔
        ∃ i a b, 1 ≤ i ∧ F.lon[i]? = some a ∧ F.lon[i + 1]? = some b ∧
          F64.lt cfg.spacingTol (F64.abs (F64.sub (F64.sub b a) (fieldMeta F).lonstep)) = true)

/-- START of a legal field whose cells all quantize and whose header has room: every register after it, and the first Send
(44_framer.md R111, R112). -/
def Obligations.StartSendsHeader : Prop :=
  ∀ (s : State) (F : WindField) (S : List Sample) (text : Text) (n : Nat), s.cfg.legal = true →
    s.state ≠ .sending → s.port.F = FieldOperand.of F → fieldDefect F = none →
    quantizeCells s.cfg 0 (F.u.zip F.v) = .ok S → realsFinite (fieldMeta F) = true →
    fragmentText s.cfg 0 (headerLines (fieldMeta F) 0) (groupBits (packSamples S)) 0 = (text, n) → n ≠ 0 →
      exec .start s =
        .next { s with
          state := .sending, shift := 0, index := 0, cursor := 0, count := n,
          nsym := (groupBits (packSamples S)).length, syms := groupBits (packSamples S), header := fieldMeta F,
          txbuf := text, result := .none, err := .none, warnLat := irregularAxis s.cfg F.lat,
          warnLon := irregularAxis s.cfg F.lon, txlog := s.txlog ++ [.send text], out := .ok .none }

/-- START of a legal field raises InvalidSample with the first cell that does not quantize (44_framer.md R112; 42_quantizer.md
R86), and FrameOverflow when its first symbol does not fit after the header under WHOLE (44_framer.md R110); each ends the
encode in FAULTED with no Send. -/
def Obligations.StartFaults : Prop :=
  ∀ (s : State) (F : WindField), s.cfg.legal = true → s.state ≠ .sending → s.port.F = FieldOperand.of F →
    fieldDefect F = none →
    (∀ c u v, F.u[c]? = some u → F.v[c]? = some v → quantize s.cfg u v = none →
      (∀ d x y, d < c → F.u[d]? = some x → F.v[d]? = some y → quantize s.cfg x y ≠ none) →
        exec .start s =
          .next { s with
            shift := 0, index := 0, cursor := 0, count := 0, nsym := 0, syms := [], header := fieldMeta F,
            txbuf := [], warnLat := irregularAxis s.cfg F.lat, warnLon := irregularAxis s.cfg F.lon,
            state := .faulted, result := .false, err := .invalidSample,
            out := .err (.invalidSample (some c) u v) }) ∧
    (∀ S x xs, quantizeCells s.cfg 0 (F.u.zip F.v) = .ok S → realsFinite (fieldMeta F) = true →
      s.cfg.capScope = .whole → groupBits (packSamples S) = x :: xs →
      120 < (headerLines (fieldMeta F) 0).length + (encodeSymbol s.cfg x 0).length →
        exec .start s =
          .next { s with
            shift := 0, index := 0, cursor := 0, count := 0, nsym := xs.length + 1, syms := x :: xs,
            header := fieldMeta F, txbuf := [], warnLat := irregularAxis s.cfg F.lat,
            warnLon := irregularAxis s.cfg F.lon, state := .faulted, result := .false, err := .frameOverflow,
            out := .err (.frameOverflow 0) })

/-- SENDACK while SENDING: success of the last fragment ends the encode, success of another sends the next one at shift 0
or, where that one has no room for a symbol, ends in FrameOverflow with the Ack in the history; failure at shift 9 exhausts it, and
failure before that sends the same range at the next shift (44_framer.md R110, R111, R113). -/
def Obligations.SendackResult : Prop :=
  ∀ s : State, s.cfg.legal = true → s.state = .sending →
    (s.cursor + s.count = s.nsym →
      exec (.sendack true) s =
        .next { s with
          cursor := s.cursor + s.count, state := .done, result := .true, txlog := s.txlog ++ [.ack true],
          out := .ok .none }) ∧
    (∀ text n, s.cursor + s.count ≠ s.nsym → s.cursor + s.count ≤ s.syms.length →
      fragmentText s.cfg 0 (dataLine (s.index + 1) 0) s.syms (s.cursor + s.count) = (text, n) →
        (n ≠ 0 →
          exec (.sendack true) s =
            .next { s with
              cursor := s.cursor + s.count, index := s.index + 1, shift := 0, count := n, txbuf := text,
              txlog := s.txlog ++ [.ack true, .send text], out := .ok .none }) ∧
        (n = 0 →
          exec (.sendack true) s =
            .next { s with
              cursor := s.cursor + s.count, index := s.index + 1, shift := 0, state := .faulted, result := .false,
              err := .frameOverflow, txlog := s.txlog ++ [.ack true], out := .err (.frameOverflow (s.index + 1)) })) ∧
    (s.shift.toNat = 9 →
      exec (.sendack false) s =
        .next { s with
          shift := 10, state := .exhausted, result := .false, err := .retryExhausted,
          txlog := s.txlog ++ [.ack false], out := .err (.retryExhausted s.index) }) ∧
    (∀ text n, s.shift.toNat < 9 → s.cursor ≤ s.syms.length →
      (s.index = 0 → s.header.hours ≠ [] ∧ realsFinite s.header = true) →
      fragmentText s.cfg (s.shift.toNat + 1) (metadataLines s.index (s.shift.toNat + 1) s.header) s.syms s.cursor =
        (text, n) → n ≠ 0 →
        exec (.sendack false) s =
          .next { s with
            shift := s.shift + 1, count := n, txbuf := text, txlog := s.txlog ++ [.ack false, .send text],
            out := .ok .none })

/-- CANCEL: SENDING becomes CANCELLED, and in every other state nothing changes (44_framer.md R115). -/
def Obligations.CancelResult : Prop :=
  ∀ s : State, s.cfg.legal = true →
    (s.state = .sending →
      exec .cancel s =
        .next { s with state := .cancelled, result := .false, err := .cancelled, out := .ok .none }) ∧
    (s.state ≠ .sending → exec .cancel s = .next { s with out := .ok .none })

/-- The invariant of the sequencer holds at reset. -/
def Obligations.InvariantAtReset : Prop :=
  State.reset.Inv

/-- Every step keeps the invariant of the sequencer (10_state.md R27, R28, R31; 44_framer.md R111 to R115). -/
def Obligations.InvariantKept : Prop :=
  ∀ s t : State, s.Inv → step s = .next t → t.Inv

/-- SHIFT is 0 to 9 while SENDING, reaches 10 only in the step to EXHAUSTED, and then keeps 10 until the next START or reset
(10_state.md R31; a build resets). -/
def Obligations.ShiftBounds : Prop :=
  ∀ s t : State, s.Inv → step s = .next t →
    (t.state = .sending → t.shift.toNat ≤ 9) ∧
      (s.shift.toNat ≠ 10 → t.shift.toNat = 10 → s.state = .sending ∧ t.state = .exhausted) ∧
      (s.shift.toNat = 10 → nextActRestarts s ∨ t.shift.toNat = 10)

/-- A retry sends the same range again: the same count and cursor, a text as long, and FrameOverflow cannot occur (44_framer.md
R106, R113). -/
def Obligations.RetryKeepsRange : Prop :=
  ∀ s : State, s.Inv → s.state = .sending → s.shift.toNat < 9 →
    ∃ text, exec (.sendack false) s =
        .next { s with
          shift := s.shift + 1, txbuf := text, txlog := s.txlog ++ [.ack false, .send text],
          out := .ok .none } ∧
      text.length = s.txbuf.length

/-- A fragment that waits for its answer ends in END exactly when its range reaches NSYM, its payload line has at most 120
characters, and under WHOLE its text has at most 124 (44_framer.md R104, R119). -/
def Obligations.SentFragments : Prop :=
  ∀ s : State, s.Inv → s.state = .sending →
    (endToken <:+ s.txbuf ↔ s.cursor + s.count = s.nsym) ∧
      (∃ payload tail, s.txbuf = metadataLines s.index s.shift.toNat s.header ++ payload ++ [nl] ++ tail ∧
        payload.length ≤ 120 ∧ (tail = [] ∨ tail = endToken)) ∧
      (s.cfg.capScope = .whole → s.txbuf.length ≤ 124)

/-- Ten failures: START that sends, then ten SENDACK 0, emit exactly ten Sends, all of fragment 0 at shifts 0 to 9, and end in
EXHAUSTED with RESULT = FALSE (44_framer.md R118). -/
def Obligations.TenFailuresExhaust : Prop :=
  ∀ (s s' : State) (operands : Port), s.state ≠ .sending →
    s.pending = startAndAnswers operands (List.replicate 10 false) → step s = .next s' → s'.state = .sending →
      ∃ t, Host.Core.run Sys2Proof.core 11 s = .next t ∧ t.state = .exhausted ∧ t.result = .false ∧
        t.err = .retryExhausted ∧ t.index = 0 ∧
        eventsSince s t =
          (List.range 10).flatMap fun k =>
            [.send (fragmentText s'.cfg k (headerLines s'.header k) s'.syms 0).1, .ack false]

/-- Every encode whose Sends are answered ends after at most 10 × NSYM answers, and RESULT is TRUE exactly when it is DONE
(44_framer.md R120; 70_reset_and_hazards.md R154). -/
def Obligations.EncodeEnds : Prop :=
  ∀ (s s' : State) (operands : Port) (answers : List Bool), s.state ≠ .sending →
    s.pending = startAndAnswers operands answers → step s = .next s' → s'.state = .sending →
    answers.length = 10 * s'.nsym →
      ∃ t, Host.Core.run Sys2Proof.core (answers.length + 1) s = .next t ∧ t.state.ended = true ∧
        (t.state = .done ∧ t.result = .true ∨ t.state ≠ .done ∧ t.result = .false)

/-- The ranges of the accepted fragments of a DONE encode follow one another from symbol 0 and end at NSYM: each accepted text
is the fragment of its index at some shift, from where the one before it stopped (44_framer.md R121). -/
def Obligations.AcceptedRangesCover : Prop :=
  ∀ (s s' t : State) (operands : Port) (answers : List Bool), s.state ≠ .sending →
    s.pending = startAndAnswers operands answers → step s = .next s' → s'.state = .sending →
    Host.Core.run Sys2Proof.core (answers.length + 1) s = .next t → t.state = .done →
      ∃ shifts : List Nat, shifts.length = t.index + 1 ∧ (∀ k ∈ shifts, k ≤ 9) ∧
        acceptedTexts (eventsSince s t) = messageTexts s.cfg s'.header s'.syms 0 0 shifts ∧
        messageCursor s.cfg s'.header s'.syms 0 0 shifts = s'.nsym

/-- ENCODE presents START and then, one at a time while STATE = SENDING, an answer for each Send, and no more; run through, it has
ended, or the answers have; and from a state that meets the invariant it yields true exactly in DONE, false in the other ends and
nothing elsewhere (30_encoding.md R74). The acts are a list of the model's own (DESIGN CHOICE; log 1). That ENCODE yields nothing where
RESULT is NONE, and an earlier encode's RESULT where START is turned away with OperandRange, is the model's deduction (DEDUCED; log
22). ENCODE while SENDING is left out here (log 22 says what it does). -/
def Obligations.EncodeExpansion : Prop :=
  ∀ (s : State) (operands : Port) (answers : List Bool) (rest : List HostAct), s.cfg.legal = true →
    s.state ≠ .sending →
      ∃ n, n ≤ answers.length ∧
        encodeActs s operands answers = startAndAnswers operands (answers.take n) ∧
        (∀ k < n, ∃ t,
          Host.Core.run Sys2Proof.core (k + 1) { s with pending := encodeActs s operands answers ++ rest } = .next t ∧
            t.state = .sending) ∧
        ∃ t,
          Host.Core.run Sys2Proof.core (n + 1) { s with pending := encodeActs s operands answers ++ rest } = .next t ∧
            t.pending = rest ∧ (n = answers.length ∨ t.state ≠ .sending) ∧
            (s.Inv →
              encodeYield t =
                if t.state = .done then some true else if t.state.ended then some false else none)

/-! ## The decode engine (45_reassembler.md) -/

/-- RAWSPLIT: the lines of the joined texts but the blank ones and those that read END, in order. Lines splits at every NL, so a
text that joins lines without an NL by NL has those, each without one final carriage return (45_reassembler.md R122, R123). -/
def Obligations.RawsplitResult : Prop :=
  (∀ s : State, s.cfg.legal = true →
    exec .rawsplit s =
      .next { s with
        out := .ok (.lines
          ((linesOf (joinTexts ['\n'] s.port.ts)).filter fun r => decide (r ≠ [] ∧ r ≠ ['E', 'N', 'D']))) }) ∧
    (∀ t : Text, (linesOf t).length = t.count '\n' + 1) ∧
    (∀ ls : List Text, ls ≠ [] → (∀ l ∈ ls, '\n' ∉ l) →
      linesOf (joinTexts ['\n'] ls) = ls.map fun l => if l.getLast? = some '\r' then l.dropLast else l) ∧
    ∀ t : Text, ∃ ls : List Text, ls ≠ [] ∧ (∀ l ∈ ls, '\n' ∉ l) ∧ t = joinTexts ['\n'] ls

/-- Whether a fragment carries END has no effect on DECODE (45_reassembler.md R131). -/
def Obligations.EndHasNoEffect : Prop :=
  ∀ (s r : State) (before after : List Text) (text : Text), s.cfg.legal = true → r.cfg = s.cfg →
    s.port.ts = before ++ (text ++ [nl] ++ endToken) :: after →
    r.port.ts = before ++ (text ++ [nl]) :: after →
      ∃ out, exec .decode s = .next { s with out := out } ∧ exec .decode r = .next { r with out := out }

/-- PARSEHDR: the record of six lines, and the first failing reason in the order of 45_reassembler.md R124. -/
def Obligations.ParsehdrResult : Prop :=
  ∀ s : State, s.cfg.legal = true →
    (s.port.ls.length < 6 → exec .parsehdr s = .next { s with out := .err (.malformedHeader .lineCount) }) ∧
    ∀ l1 l2 l3 l4 l5 l6 more, s.port.ls = l1 :: l2 :: l3 :: l4 :: l5 :: l6 :: more →
      (parseList parseNat l1 = none →
        exec .parsehdr s = .next { s with out := .err (.malformedHeader .hours) }) ∧
      ∀ hours, parseList parseNat l1 = some hours →
        (parseDateTime l2 = none →
          exec .parsehdr s = .next { s with out := .err (.malformedHeader .dateTime) }) ∧
        ∀ base, parseDateTime l2 = some base →
          ((∀ a b c d, parseList parseReal l3 ≠ some [a, b, c, d]) →
            exec .parsehdr s = .next { s with out := .err (.malformedHeader .boundingBox) }) ∧
          ∀ a b c d, parseList parseReal l3 = some [a, b, c, d] →
            ((∀ x y, parseList parseReal l4 ≠ some [x, y]) →
              exec .parsehdr s = .next { s with out := .err (.malformedHeader .spacing) }) ∧
            ∀ x y, parseList parseReal l4 = some [x, y] →
              ((∀ k, parseNat l5 = some k → 10 ≤ k) →
                exec .parsehdr s = .next { s with out := .err (.malformedHeader .shift) }) ∧
              ∀ k, parseNat l5 = some k → k ≤ 9 →
                (regenerateAxis s.cfg a b x = none →
                  exec .parsehdr s = .next { s with out := .err (.malformedHeader .latAxis) }) ∧
                ∀ lat, regenerateAxis s.cfg a b x = some lat →
                  (regenerateAxis s.cfg c d y = none →
                    exec .parsehdr s = .next { s with out := .err (.malformedHeader .lonAxis) }) ∧
                  ∀ lon, regenerateAxis s.cfg c d y = some lon →
                    exec .parsehdr s =
                      .next { s with out := .ok (.header ⟨hours, base, a, b, c, d, x, y, lat, lon, k, l6⟩) }

/-- PARSEFRAG reads a line of two naturals, leading zeros and all, as the framer's metadata line is one, and gives its four
reasons (45_reassembler.md R125; 44_framer.md R101). -/
def Obligations.ParsefragResult : Prop :=
  (∀ s : State, s.cfg.legal = true →
    (s.port.ls.length < 2 → exec .parsefrag s = .next { s with out := .err (.malformedFragment .unpaired) }) ∧
    ∀ line payload more, s.port.ls = line :: payload :: more →
      ((∀ n k, parseList parseNat line ≠ some [n, k]) →
        exec .parsefrag s = .next { s with out := .err (.malformedFragment .metadata) }) ∧
      ∀ n k, parseList parseNat line = some [n, k] →
        (1 ≤ n → k ≤ 9 → exec .parsefrag s = .next { s with out := .ok (.dataFragment ⟨n, k, payload⟩) }) ∧
        (n = 0 → exec .parsefrag s = .next { s with out := .err (.malformedFragment .index) }) ∧
        (1 ≤ n → 10 ≤ k → exec .parsefrag s = .next { s with out := .err (.malformedFragment .shift) })) ∧
    ∀ n k i j : Nat,
      parseList parseNat (List.replicate i '0' ++ dec n ++ [','] ++ List.replicate j '0' ++ dec k) = some [n, k]

/-- REASM: fragments in any order of arrival give the bits of the header's symbols and then of each fragment's in index order,
each decoded at its own shift; a repeated index is DuplicateIndex of the smallest, and with none the first fragment that fails to
decode, header first and then by index, is AlphabetError with its index, position and reason (45_reassembler.md R126, R130). That a
header record PARSEHDR never answers for a reason other than its shift is taken as well is the model's (DEDUCED; log 27). -/
def Obligations.ReasmResult : Prop :=
  ∀ (s : State) (hdr : Header) (frs : List DataFragment), s.cfg.legal = true → hdr.shift ≤ 9 →
    s.port.hdr = HeaderOperand.of hdr → s.port.frs = frs.map FragmentOperand.of →
    (∀ f ∈ frs, 1 ≤ f.index ∧ f.shift ≤ 9) →
    (∀ (first : List Sym) (message : List (Nat × Nat × List Sym)),
      hdr.payload = encodeText s.cfg first hdr.shift → (message.Pairwise fun a b => a.1 < b.1) →
      frs.Perm (message.map fun f => ⟨f.1, f.2.1, encodeText s.cfg f.2.2 f.2.1⟩) →
        exec .reasm s =
          .next { s with out := .ok (.bits (symbolBits (first ++ message.flatMap fun f => f.2.2))) }) ∧
    (∀ n, 1 < (frs.map DataFragment.index).count n → (∀ m < n, (frs.map DataFragment.index).count m ≤ 1) →
      exec .reasm s = .next { s with out := .err (.duplicateIndex n) }) ∧
    ((frs.map DataFragment.index).Nodup →
      (∀ p reason, decodeText s.cfg hdr.payload hdr.shift = .error (p, reason) →
        exec .reasm s = .next { s with out := .err (.alphabetError (some 0) p reason) }) ∧
      ∀ first f p reason, decodeText s.cfg hdr.payload hdr.shift = .ok first → f ∈ frs →
        decodeText s.cfg f.payload f.shift = .error (p, reason) →
        (∀ g ∈ frs, g.index < f.index → ∃ ss, decodeText s.cfg g.payload g.shift = .ok ss) →
          exec .reasm s = .next { s with out := .err (.alphabetError (some f.index) p reason) })

/-- AXES: RoundI(r) + 1 evenly spaced points, the last exactly hi (lo when there is one), and MalformedHeader(Axis) for
anything that is not an axis (45_reassembler.md R127). -/
def Obligations.AxesResult : Prop :=
  ∀ s : State, s.cfg.legal = true →
    (∀ (sg : Bool) (m : Fin f64InfCode) (n : Nat), s.port.lo.isFinite = true → s.port.hi.isFinite = true →
      s.port.step.isFinite = true → F64.lt F64.zero s.port.step = true →
      F64.div (F64.sub s.port.hi s.port.lo) s.port.step = .fin sg m →
      (n : Int) = roundI s.cfg.roundTies sg m.val + 1 → 1 ≤ n →
        ∃ xs : List F64, exec .axes s = .next { s with out := .ok (.axis xs) } ∧ xs.length = n ∧
          xs[n - 1]? = some (if n = 1 then s.port.lo else s.port.hi) ∧
          ∀ i, i + 1 < n →
            xs[i]? =
              some (F64.add
                (F64.mul (F64.ofInt i)
                  (F64.div (F64.sub s.port.hi s.port.lo) (F64.ofInt ((n : Int) - 1)))) s.port.lo)) ∧
    (s.port.lo.isFinite = false ∨ s.port.hi.isFinite = false ∨ s.port.step.isFinite = false ∨
      F64.le s.port.step F64.zero = true ∨
      (F64.div (F64.sub s.port.hi s.port.lo) s.port.step).isFinite = false ∨
      (∃ sg m, F64.div (F64.sub s.port.hi s.port.lo) s.port.step = .fin sg m ∧
        roundI s.cfg.roundTies sg m.val + 1 < 1) →
        exec .axes s = .next { s with out := .err (.malformedHeader .axis) })

/-- BUILD: the samples packed in the bits come back cell by cell with their bucket centres, up to 7 spare bits ignored; too few
or too many nibbles are GridSizeMismatch, so a message that lost a symbol does not pass (45_reassembler.md R128, R133). That a header
record PARSEHDR never answers for a reason other than its shift, such as one with no hours, is taken as well is the model's (DEDUCED;
log 27). -/
def Obligations.BuildResult : Prop :=
  ∀ (s : State) (hdr : Header) (b : Bits), s.cfg.legal = true → hdr.shift ≤ 9 →
    s.port.hdr = HeaderOperand.of hdr → s.port.bits = b.map Bool.toNat →
    (∀ (S : List Sample) (spare : Bits), S.length = headerCells hdr → b = packSamples S ++ spare →
      spare.length ≤ 7 →
        exec .build s =
          .next { s with
            out := .ok (.field
              { hours := hdr.hours, base := hdr.base, lat := hdr.lat, lon := hdr.lon,
                M := S.map fun q => q.1, D := S.map fun q => q.2,
                u := S.map fun q => (dequantize s.cfg q.1 q.2).1,
                v := S.map fun q => (dequantize s.cfg q.1 q.2).2,
                bbox := (hdr.latmin, hdr.latmax, hdr.lonmin, hdr.lonmax),
                spacing := (hdr.latstep, hdr.lonstep) }) }) ∧
    (b.length / 4 ≠ 2 * headerCells hdr → b.length / 4 ≠ 2 * headerCells hdr + 1 →
      exec .build s = .next { s with out := .err (.gridSizeMismatch (b.length / 4) (headerCells hdr)) }) ∧
    ∀ ss : List Sym, ss.length < (8 * headerCells hdr + 6) / 7 → b = symbolBits ss →
      ∃ count, exec .build s = .next { s with out := .err (.gridSizeMismatch count (headerCells hdr)) }

/-- DECODE is RAWSPLIT, PARSEHDR of the first six lines, PARSEFRAG of the rest in pairs, REASM and BUILD, and the first of them to
fail gives its error: the header's, Unpaired for an odd rest, that of the first bad pair in text order, REASM's, BUILD's
(45_reassembler.md R129; 60_exceptions.md R140). -/
def Obligations.DecodeResult : Prop :=
  ∀ s : State, s.cfg.legal = true →
    (∀ e, parseHeader s.cfg (survivingLines s.port.ts) = .error e →
      exec .decode s = .next { s with out := .err e }) ∧
    ∀ hdr : Header, parseHeader s.cfg (survivingLines s.port.ts) = .ok hdr →
      ((survivingLines s.port.ts).length % 2 = 1 →
        exec .decode s = .next { s with out := .err (.malformedFragment .unpaired) }) ∧
      (∀ (good later : List (Text × Text)) (bad : Text × Text) (e : Err),
        (survivingLines s.port.ts).drop 6 = (good ++ bad :: later).flatMap (fun p => [p.1, p.2]) →
        (∀ p ∈ good, ∃ f, parseFragment [p.1, p.2] = .ok f) → parseFragment [bad.1, bad.2] = .error e →
          exec .decode s = .next { s with out := .err e }) ∧
      ∀ (pairs : List (Text × Text)) (frs : List DataFragment),
        (survivingLines s.port.ts).drop 6 = pairs.flatMap (fun p => [p.1, p.2]) →
        frs.length = pairs.length → (∀ p ∈ pairs.zip frs, parseFragment [p.1.1, p.1.2] = .ok p.2) →
          (∀ e, reassemble s.cfg hdr frs = .error e → exec .decode s = .next { s with out := .err e }) ∧
          ∀ b : Bits, reassemble s.cfg hdr frs = .ok b →
            (∀ e, rebuildField s.cfg hdr b = .error e → exec .decode s = .next { s with out := .err e }) ∧
            ∀ G : RebuiltField, rebuildField s.cfg hdr b = .ok G →
              exec .decode s = .next { s with out := .ok (.field G) }

/-- The round trip of the codec: when an encode ends in DONE, DECODE of the accepted text of the header followed by those of
the data fragments in any order gives back the hours, the base time and the buckets QUANT gives every cell, provided that
(a) AXES gives back the point counts, (b) no payload line reads END, and (c) the header's reals read back (45_reassembler.md
R132). -/
def Obligations.CodecRoundTrip : Prop :=
  ∀ (s s' t r : State) (operands : Port) (F : WindField) (answers : List Bool) (first : Text)
    (others corpus : List Text),
    s.state ≠ .sending → operands.F = FieldOperand.of F → s.pending = startAndAnswers operands answers →
    step s = .next s' → s'.state = .sending →
    Host.Core.run Sys2Proof.core (answers.length + 1) s = .next t → t.state = .done →
    axisCount s.cfg (fieldMeta F).latmin (fieldMeta F).latmax (fieldMeta F).latstep = some F.lat.length →
    axisCount s.cfg (fieldMeta F).lonmin (fieldMeta F).lonmax (fieldMeta F).lonstep = some F.lon.length →
    acceptedTexts (eventsSince s t) = first :: others →
    (∀ text ∈ first :: others, ∀ line ∈ (linesOf text).dropLast, line ≠ endToken) →
    (∀ x ∈ [(fieldMeta F).latmin, (fieldMeta F).latmax, (fieldMeta F).lonmin, (fieldMeta F).lonmax,
      (fieldMeta F).latstep, (fieldMeta F).lonstep], parseReal (floatText x) = some x) →
    corpus.Perm others → r.cfg = s.cfg → r.port.ts = first :: corpus →
      ∃ (S : List Sample) (G : RebuiltField), quantizeField s.cfg F = .ok S ∧
        exec .decode r = .next { r with out := .ok (.field G) } ∧ G.hours = F.hours ∧ G.base = F.base ∧
        G.M = S.map Prod.fst ∧ G.D = S.map Prod.snd

end Statements
end

