-- ==== Sys2Proof/Laws/Binary64.lean ====
section
/-! SUPPORT. What the one rounding of binary64 does at its two ends and to a fraction written another way, and with that: `fl` of a decimal is the rounded exact value. -/

namespace Sys2Proof

/-- A value under half of the least binary64 rounds to zero. -/
theorem roundUnits_tiny {neg : Bool} {num den : Nat} (h : 2 * num < den) : roundUnits neg num den = f64OfCode neg 0 := by
  have hq : num / den = 0 := Nat.div_eq_of_lt (by omega)
  have hr : num % den = num := Nat.mod_eq_of_lt (by omega)
  simp [roundUnits, hq, hr, show ¬den < 2 * num by omega, show 2 * num ≠ den by omega]

/-- A value of 2^2099 units or more rounds to infinity. -/
theorem roundUnits_huge {neg : Bool} {num den k : Nat} (hk : 2099 ≤ k) (h : 2 ^ k ≤ num / den) :
    roundUnits neg num den = .inf neg := by
  have hne : num / den ≠ 0 := Nat.ne_of_gt (Nat.lt_of_lt_of_le (Nat.two_pow_pos _) h)
  have hlog : k ≤ (num / den).log2 := (Nat.le_log2 hne).mpr h
  have hcode : f64InfCode ≤ ((num / den).log2 - 52) * binade := by
    calc f64InfCode = 2047 * binade := by norm_num
      _ ≤ _ := Nat.mul_le_mul_right _ (by omega)
  simp only [roundUnits, f64OfCode]
  rw [dif_neg (Nat.not_lt.mpr (Nat.le_trans hcode (Nat.le_add_right _ _)))]

/-- The rounding reads the value of a fraction and not the way it is written. -/
theorem roundUnits_scale {neg : Bool} {num den c : Nat} (hc : 0 < c) :
    roundUnits neg (num * c) (den * c) = roundUnits neg num den := by
  have hq : num * c / (den * c) = num / den := Nat.mul_div_mul_right _ _ hc
  have hu (n : Nat) : den * c * 2 ^ n = den * 2 ^ n * c := Nat.mul_right_comm ..
  have hlt (a b : Nat) : (a * c < 2 * (b * c)) ↔ a < 2 * b := by
    rw [← Nat.mul_assoc]; exact Nat.mul_lt_mul_right hc
  have heq (a b : Nat) : (2 * (b * c) = a * c) ↔ 2 * b = a := by
    rw [← Nat.mul_assoc]; exact Nat.mul_left_inj hc.ne'
  simp only [roundUnits, hq, hu, Nat.mul_div_mul_right _ _ hc, Nat.mul_mod_mul_right, hlt, heq]

theorem ten_pow_ge (n : Nat) : 2 ^ (3 * n) ≤ 10 ^ n := by
  rw [pow_mul]
  exact Nat.pow_le_pow_left (by norm_num) n

/-- `fl` of a decimal is the rounded exact value, with no case apart (00_scope.md R16, 30_encoding.md R72). -/
theorem F64.ofDecimal_eq (neg : Bool) (m : Nat) (e : Int) :
    F64.ofDecimal neg m e = roundUnits neg (m * 10 ^ e.toNat * oneUnits) (10 ^ (-e).toNat) := by
  unfold F64.ofDecimal
  split
  · next he =>
    obtain ⟨n, rfl⟩ : ∃ n : Nat, e = n := ⟨e.toNat, by omega⟩
    have hneg : (-(n : Int)).toNat = 0 := by omega
    rw [hneg, Int.toNat_natCast, pow_zero]
    split
    · next hm => rw [hm, roundUnits_tiny (by simp)]
    · next hm =>
      refine (roundUnits_huge (k := 3 * n + 1074) (by omega) ?_).symm
      rw [Nat.div_one, pow_add]
      calc 2 ^ (3 * n) * 2 ^ 1074 ≤ 10 ^ n * 2 ^ 1074 := Nat.mul_le_mul_right _ (ten_pow_ge n)
        _ ≤ m * 10 ^ n * oneUnits := Nat.mul_le_mul_right _ (Nat.le_mul_of_pos_left _ (Nat.pos_of_ne_zero hm))
  · split
    · next he hs =>
      obtain ⟨n, rfl⟩ : ∃ n : Nat, e = -(n : Int) := ⟨(-e).toNat, by omega⟩
      have hpos : (-(n : Int)).toNat = 0 := by omega
      rw [hpos, neg_neg, Int.toNat_natCast, pow_zero, Nat.mul_one, roundUnits_tiny]
      have hlt : m < 2 ^ (m.log2 + 1) := Nat.lt_log2_self
      calc 2 * (m * oneUnits) < 2 * (2 ^ (m.log2 + 1) * oneUnits) := by
            have : m * oneUnits < 2 ^ (m.log2 + 1) * oneUnits := Nat.mul_lt_mul_of_pos_right hlt (Nat.two_pow_pos _)
            omega
        _ = 2 ^ (1 + (m.log2 + 1) + 1074) := by rw [pow_add _ _ 1074, pow_add 2 1, pow_one, Nat.mul_assoc]
        _ ≤ 2 ^ (3 * n) := Nat.pow_le_pow_right (by norm_num) (by omega)
        _ ≤ 10 ^ n := ten_pow_ge n
    · rfl

end Sys2Proof
end

