-- ==== Sys2Proof/Laws/Bits.lean ====
section
/-! SUPPORT. What the bit-packer's shared operations do, said once: the bits of a value, its number back, lengths, and one window of
GROUP or SPLIT at a time. -/

namespace Sys2Proof.Machine

@[simp] theorem bitsMsb_length {w : Nat} (x : BitVec w) : (bitsMsb x).length = w := by simp [bitsMsb]

/-- Bit i of the bits of a value is its i-th from the most significant end (20_memory.md R45). -/
theorem bitsMsb_getElem? {w : Nat} (x : BitVec w) {i : Nat} (hi : i < w) : (bitsMsb x)[i]? = some (x.getMsbD i) := by
  simp [bitsMsb, List.getElem?_map, List.getElem?_range hi]

@[simp] theorem valBits_nil : valBits [] = 0 := rfl

theorem valBits_snoc (b : Bits) (x : Bool) : valBits (b ++ [x]) = 2 * valBits b + x.toNat := by
  simp [valBits]

theorem valBits_lt (b : Bits) : valBits b < 2 ^ b.length := by
  induction b using List.reverseRecOn with
  | nil => simp
  | append_singleton b x ih =>
    rw [valBits_snoc, List.length_append, List.length_singleton, pow_succ]
    cases x <;> simp <;> omega

/-- Bit i of the number a bit string writes. -/
theorem valBits_testBit (b : Bits) (i : Nat) :
    (valBits b).testBit i = (decide (i < b.length) && b.getD (b.length - 1 - i) false) := by
  induction b using List.reverseRecOn generalizing i with
  | nil => simp
  | append_singleton b x ih =>
    rw [valBits_snoc]
    cases i with
    | zero =>
      rw [Nat.testBit_zero]
      cases x <;> simp
    | succ i =>
      rw [Nat.testBit_succ, show (2 * valBits b + x.toNat) / 2 = valBits b by have := x.toNat_le; omega, ih]
      by_cases hi : i < b.length
      · have h1 : b.length + 1 - 1 - (i + 1) = b.length - 1 - i := by omega
        have h2 : b.length - 1 - i < b.length := by omega
        simp only [List.length_append, List.length_singleton, h1, hi, decide_true, Bool.true_and,
          show i + 1 < b.length + 1 by omega, List.getD_eq_getElem?_getD, List.getElem?_append_left h2]
      · simp [hi]

/-- The bits of a value write its number (00_scope.md R15). -/
theorem valBits_bitsMsb {w : Nat} (x : BitVec w) : valBits (bitsMsb x) = x.toNat := by
  apply Nat.eq_of_testBit_eq
  intro i
  rw [valBits_testBit, bitsMsb_length, BitVec.testBit_toNat]
  by_cases hi : i < w
  · rw [List.getD_eq_getElem?_getD, bitsMsb_getElem? x (by omega)]
    simp only [hi, decide_true, Bool.true_and, Option.getD_some, BitVec.getMsbD]
    rw [show w - 1 - (w - 1 - i) = i by omega]
    simp [show w - 1 - i < w by omega]
  · simp [hi, BitVec.getLsbD_of_ge x i (by omega)]

@[simp] theorem packSamples_length (S : List Sample) : (packSamples S).length = 8 * S.length := by
  have h : ∀ f : Sample → Nib, (S.flatMap fun q => bitsMsb (f q)).length = 4 * S.length := by
    intro f
    induction S with
    | nil => rfl
    | cons q S ih =>
      simp only [List.flatMap_cons, List.length_append, bitsMsb_length, ih, List.length_cons]
      omega
  rw [packSamples, List.length_append, h Prod.fst, h Prod.snd]
  omega

@[simp] theorem symbolBits_nil : symbolBits [] = [] := rfl

@[simp] theorem symbolBits_cons (x : Sym) (xs : List Sym) : symbolBits (x :: xs) = bitsMsb x ++ symbolBits xs := rfl

@[simp] theorem symbolBits_append (xs ys : List Sym) : symbolBits (xs ++ ys) = symbolBits xs ++ symbolBits ys := by
  simp [symbolBits]

@[simp] theorem symbolBits_length (ss : List Sym) : (symbolBits ss).length = 7 * ss.length := by
  induction ss with
  | nil => rfl
  | cons x xs ih =>
    simp only [symbolBits_cons, List.length_append, bitsMsb_length, ih, List.length_cons]
    omega

/-- GROUP's windows do not depend on spare fuel. -/
theorem groupLoop_fuel (b : Bits) (fuel : Nat) (h : b.length ≤ fuel) : groupLoop fuel b = groupBits b := by
  suffices ∀ m n (b : Bits), b.length ≤ m → b.length ≤ n → groupLoop m b = groupLoop n b from
    this fuel b.length b h (Nat.le_refl _)
  intro m
  induction m with
  | zero =>
    intro n b hm _
    have : b = [] := List.length_eq_zero_iff.mp (by omega)
    subst this
    cases n <;> rfl
  | succ m ih =>
    intro n b hm hn
    by_cases hb : b = []
    · subst hb; cases n <;> rfl
    · have hpos := List.length_pos_of_ne_nil hb
      cases n with
      | zero => omega
      | succ n =>
        have hd : (b.drop 7).length ≤ m := by rw [List.length_drop]; omega
        have hd' : (b.drop 7).length ≤ n := by rw [List.length_drop]; omega
        simp only [groupLoop, hb, if_false, ih n _ hd hd']

@[simp] theorem groupBits_nil : groupBits [] = [] := rfl

/-- GROUP one window at a time (43_bitpacker.md R92). -/
theorem groupBits_step {b : Bits} (hb : b ≠ []) :
    groupBits b = BitVec.ofNat 7 (valBits (padWindow (b.take 7))) :: groupBits (b.drop 7) := by
  have hpos := List.length_pos_of_ne_nil hb
  obtain ⟨n, hn⟩ : ∃ n, b.length = n + 1 := ⟨b.length - 1, by omega⟩
  rw [groupBits, hn]
  simp only [groupLoop, hb, if_false]
  rw [groupLoop_fuel _ n (by rw [List.length_drop]; omega)]

/-- SPLIT's nibbles do not depend on spare fuel. -/
theorem splitLoop_fuel (b : Bits) (fuel : Nat) (h : b.length ≤ fuel) : splitLoop fuel b = splitBits b := by
  suffices ∀ m n (b : Bits), b.length ≤ m → b.length ≤ n → splitLoop m b = splitLoop n b from
    this fuel b.length b h (Nat.le_refl _)
  intro m
  induction m with
  | zero =>
    intro n b hm _
    have : b = [] := List.length_eq_zero_iff.mp (by omega)
    subst this
    cases n <;> rfl
  | succ m ih =>
    intro n b hm hn
    cases n with
    | zero =>
      have : b = [] := List.length_eq_zero_iff.mp (by omega)
      subst this
      rfl
    | succ n =>
      simp only [splitLoop]
      split
      · rfl
      · have hd : (b.drop 4).length ≤ m := by rw [List.length_drop]; omega
        have hd' : (b.drop 4).length ≤ n := by rw [List.length_drop]; omega
        rw [ih n _ hd hd']

/-- SPLIT discards a last group shorter than 4 bits (43_bitpacker.md R94). -/
theorem splitBits_short {b : Bits} (hb : b.length < 4) : splitBits b = [] := by
  cases h : b.length with
  | zero => rw [splitBits, h]; rfl
  | succ n => rw [splitBits, h]; simp [splitLoop, hb]

/-- SPLIT one nibble at a time (43_bitpacker.md R94). -/
theorem splitBits_step {b : Bits} (hb : 4 ≤ b.length) :
    splitBits b = BitVec.ofNat 4 (valBits (b.take 4)) :: splitBits (b.drop 4) := by
  obtain ⟨n, hn⟩ : ∃ n, b.length = n + 1 := ⟨b.length - 1, by omega⟩
  rw [splitBits, hn]
  simp only [splitLoop, show ¬b.length < 4 by omega, if_false]
  rw [splitLoop_fuel _ n (by rw [List.length_drop]; omega)]

end Sys2Proof.Machine
end

