-- ==== Sys2Proof/Laws/Config.lean ====
section
/-! SUPPORT. What a legal configuration gives (spec/10_state.md R24, R25), in the library's terms: the proofs cite these and unfold no
check. -/

namespace Sys2Proof

theorem sameChar_iff (a b : Char) : sameChar a b = true ↔ a = b := by
  simp only [sameChar, Nat.beq_eq]
  exact ⟨fun h => Char.ext (UInt32.toNat_inj.mp h), fun h => h ▸ rfl⟩

theorem sameChar_eq_decide (a b : Char) : sameChar a b = decide (a = b) := by
  rw [Bool.eq_iff_iff, sameChar_iff, decide_eq_true_iff]

/-- The bit test says what it should: no number twice, none with its bit set before. -/
theorem codesDistinct_iff (cs : List Nat) (seen : Nat) :
    codesDistinct seen cs = true ↔ cs.Nodup ∧ ∀ c ∈ cs, seen.testBit c = false := by
  induction cs generalizing seen with
  | nil => simp [codesDistinct]
  | cons c cs ih =>
    simp only [codesDistinct, Bool.and_eq_true, Bool.not_eq_true', ih, List.nodup_cons, List.mem_cons,
      forall_eq_or_imp, Nat.testBit_or, Nat.testBit_two_pow, Bool.or_eq_false_iff, decide_eq_false_iff_not]
    constructor
    · rintro ⟨hc, hnd, hall⟩
      exact ⟨⟨fun hmem => (hall c hmem).2 rfl, hnd⟩, hc, fun x hx => (hall x hx).1⟩
    · rintro ⟨⟨hmem, hnd⟩, hc, hall⟩
      exact ⟨hc, hnd, fun x hx => ⟨hall x hx, fun h => hmem (h ▸ hx)⟩⟩

/-- A character the safe set may hold is none of `@`, `NL` and carriage return, and no control character. -/
theorem safeChar_iff (c : Char) :
    safeChar c = true ↔ c ≠ escMark ∧ c ≠ nl ∧ c ≠ cr ∧ isControl c = false := by
  simp [safeChar, sameChar_eq_decide, and_assoc]

/-- 10_state.md R24, as the conditions the spec lists. -/
theorem safeSetLegal_iff (cs : List Char) :
    safeSetLegal cs = true ↔ cs.length = 122 ∧ cs.Nodup ∧ ∀ c ∈ cs, safeChar c = true := by
  simp only [safeSetLegal, Bool.and_eq_true, decide_eq_true_eq, List.all_eq_true, and_assoc, codesDistinct_iff,
    Nat.zero_testBit, implies_true, and_true]
  have hinj : Function.Injective Char.toNat := fun a b h => Char.ext (UInt32.toNat_inj.mp h)
  rw [List.nodup_map_iff hinj]

/-- An escape pair is `@` and one character that is no line end (10_state.md R25). -/
theorem escapePair_iff (t : Text) :
    escapePair t = true ↔ ∃ d, t = [escMark, d] ∧ d ≠ nl ∧ d ≠ cr := by
  match t with
  | [] => simp [escapePair]
  | [_] => simp [escapePair]
  | [a, b] => simp [escapePair, sameChar_eq_decide, and_assoc]
  | _ :: _ :: _ :: _ => simp [escapePair]

/-- 10_state.md R25, as the conditions the spec lists. -/
theorem escTableLegal_iff (ts : List Text) :
    escTableLegal ts = true ↔ ts.length = 6 ∧ ts.Nodup ∧ ∀ t ∈ ts, escapePair t = true := by
  simp [escTableLegal, and_assoc]

/-- Everything a legal configuration says (10_state.md R23; 70_reset_and_hazards.md R153). -/
theorem Cfg.legal_iff (cfg : Cfg) :
    cfg.legal = true ↔
      safeSetLegal cfg.safeSet = true ∧ escTableLegal cfg.escTable = true ∧ cfg.maxPayload = 120 ∧
        cfg.shiftLimit = 10 ∧ cfg.ktPerMs = knotsPerMs ∧ F64.le F64.zero cfg.spacingTol = true := by
  simp [Cfg.legal, and_assoc]

theorem Cfg.legal_safeSet {cfg : Cfg} (h : cfg.legal = true) :
    cfg.safeSet.length = 122 ∧ cfg.safeSet.Nodup ∧ ∀ c ∈ cfg.safeSet, safeChar c = true :=
  (safeSetLegal_iff _).mp (cfg.legal_iff.mp h).1

theorem Cfg.legal_escTable {cfg : Cfg} (h : cfg.legal = true) :
    cfg.escTable.length = 6 ∧ cfg.escTable.Nodup ∧ ∀ t ∈ cfg.escTable, escapePair t = true :=
  (escTableLegal_iff _).mp (cfg.legal_iff.mp h).2.1

theorem Cfg.legal_maxPayload {cfg : Cfg} (h : cfg.legal = true) : cfg.maxPayload = 120 :=
  (cfg.legal_iff.mp h).2.2.1

theorem Cfg.legal_shiftLimit {cfg : Cfg} (h : cfg.legal = true) : cfg.shiftLimit = 10 :=
  (cfg.legal_iff.mp h).2.2.2.1

/-- The configuration of State.reset is legal. -/
theorem builtCfg_legal : builtCfg.legal = true := by decide +kernel

end Sys2Proof
end

