-- ==== Sys2Proof/Laws/Framer.lean ====
section
/-! SUPPORT. What the alphabet and the framer's shared operations can do, said once: the character of a symbol, the greedy fill and
the fragment. -/

namespace Sys2Proof.Machine

/-! ## One symbol (30_encoding.md R65) -/

theorem encodeSymbol_safe (cfg : Cfg) {x : Sym} (k : Nat) (hx : x.toNat ≤ 121) :
    encodeSymbol cfg x k = [cfg.safeSet.getD ((x.toNat + k) % 122) escMark] := by
  simp [encodeSymbol, hx]

theorem encodeSymbol_escape (cfg : Cfg) {x : Sym} (k : Nat) (hx : 122 ≤ x.toNat) :
    encodeSymbol cfg x k = cfg.escTable.getD (x.toNat - 122) [] := by
  simp [encodeSymbol, show ¬x.toNat ≤ 121 by omega]

/-- The escape pair of a symbol under a legal configuration. -/
theorem escTable_entry {cfg : Cfg} (h : cfg.legal = true) {i : Nat} (hi : i < 6) :
    ∃ d, cfg.escTable[i]? = some [escMark, d] ∧ d ≠ nl ∧ d ≠ cr := by
  obtain ⟨hlen, -, hall⟩ := Cfg.legal_escTable h
  have hi' : i < cfg.escTable.length := by omega
  obtain ⟨d, hd, hnl, hcr⟩ := (escapePair_iff _).mp (hall _ (List.getElem_mem hi'))
  exact ⟨d, by rw [List.getElem?_eq_getElem hi', hd], hnl, hcr⟩

theorem encodeSymbol_ne_nil {cfg : Cfg} (h : cfg.legal = true) (x : Sym) (k : Nat) : encodeSymbol cfg x k ≠ [] := by
  by_cases hx : x.toNat ≤ 121
  · simp [encodeSymbol_safe cfg k hx]
  · obtain ⟨d, hd, -⟩ := escTable_entry h (i := x.toNat - 122) (by have := x.isLt; omega)
    rw [encodeSymbol_escape cfg k (by omega), List.getD_eq_getElem?_getD, hd]
    simp

@[simp] theorem encodeText_nil (cfg : Cfg) (k : Nat) : encodeText cfg [] k = [] := rfl

@[simp] theorem encodeText_cons (cfg : Cfg) (x : Sym) (xs : List Sym) (k : Nat) :
    encodeText cfg (x :: xs) k = encodeSymbol cfg x k ++ encodeText cfg xs k := rfl

@[simp] theorem encodeText_append (cfg : Cfg) (xs ys : List Sym) (k : Nat) :
    encodeText cfg (xs ++ ys) k = encodeText cfg xs k ++ encodeText cfg ys k := by
  simp [encodeText]

/-! ## The greedy fill (44_framer.md R102) -/

/-- Everything the greedy fill can do: its payload is the text of the symbols it took, it took no more than there are, and
it stops at the end or before the first symbol that does not fit. -/
theorem fillPayload_spec (cfg : Cfg) (k : Nat) (ss : List Sym) (used : Nat) :
    (fillPayload cfg k used ss).2 ≤ ss.length ∧
      (fillPayload cfg k used ss).1 = encodeText cfg (ss.take (fillPayload cfg k used ss).2) k ∧
      ((fillPayload cfg k used ss).2 ≠ 0 → used + (fillPayload cfg k used ss).1.length ≤ cfg.maxPayload) ∧
      ((fillPayload cfg k used ss).2 < ss.length →
        cfg.maxPayload < used + (encodeText cfg (ss.take ((fillPayload cfg k used ss).2 + 1)) k).length) := by
  induction ss generalizing used with
  | nil => simp [fillPayload]
  | cons x xs ih =>
    simp only [fillPayload]
    split
    · next hfit =>
      obtain ⟨hle, htext, hcap, hmax⟩ := ih (used + (encodeSymbol cfg x k).length)
      refine ⟨by simpa using hle, by simpa using htext, fun _ => ?_, fun hlt => ?_⟩
      · by_cases hz : (fillPayload cfg k (used + (encodeSymbol cfg x k).length) xs).2 = 0
        · have : (fillPayload cfg k (used + (encodeSymbol cfg x k).length) xs).1 = [] := by rw [htext, hz]; rfl
          simpa [this] using hfit
        · have := hcap hz
          simp only [List.length_append]
          omega
      · have := hmax (by simpa using hlt)
        simp only [List.take_succ_cons, encodeText_cons, List.length_append]
        omega
    · next hfit => simpa using hfit

/-- The fill takes at most as many symbols as the cap has characters. -/
theorem fillPayload_count_le {cfg : Cfg} (h : cfg.legal = true) (k : Nat) (ss : List Sym) (used : Nat) :
    (fillPayload cfg k used ss).2 ≤ 120 := by
  by_cases hz : (fillPayload cfg k used ss).2 = 0
  · omega
  · obtain ⟨hle, htext, hcap, -⟩ := fillPayload_spec cfg k ss used
    have hlen : ∀ xs : List Sym, xs.length ≤ (encodeText cfg xs k).length := by
      intro xs
      induction xs with
      | nil => simp
      | cons x xs ih =>
        have := List.length_pos_of_ne_nil (encodeSymbol_ne_nil h x k)
        simp only [List.length_cons, encodeText_cons, List.length_append]
        omega
    have h1 := hcap hz
    rw [Cfg.legal_maxPayload h] at h1
    have h2 := hlen (ss.take (fillPayload cfg k used ss).2)
    rw [← htext, List.length_take] at h2
    omega

/-! ## The fragment -/

/-- The fill of a fragment (44_framer.md R102). -/
theorem fragmentText_eq (cfg : Cfg) (k : Nat) (lines : Text) (ss : List Sym) (cur : Nat) :
    fragmentText cfg k lines ss cur =
      (lines ++ (fillPayload cfg k (countedBefore cfg lines) (ss.drop cur)).1 ++ [nl] ++
        (if cur + (fillPayload cfg k (countedBefore cfg lines) (ss.drop cur)).2 = ss.length then endToken else []),
        (fillPayload cfg k (countedBefore cfg lines) (ss.drop cur)).2) := rfl

theorem fragmentText_count_le {cfg : Cfg} (h : cfg.legal = true) (k : Nat) (lines : Text) (ss : List Sym) (cur : Nat) :
    (fragmentText cfg k lines ss cur).2 ≤ 120 := fillPayload_count_le h k _ _

/-- A fragment's range ends within the symbols. -/
theorem fragmentText_range (cfg : Cfg) (k : Nat) (lines : Text) {ss : List Sym} {cur : Nat} (hc : cur ≤ ss.length) :
    cur + (fragmentText cfg k lines ss cur).2 ≤ ss.length := by
  have := (fillPayload_spec cfg k (ss.drop cur) (countedBefore cfg lines)).1
  simp only [List.length_drop] at this
  simp only [fragmentText_eq]
  omega

theorem formatHeader_ok {m : HeaderMeta} (hh : m.hours ≠ []) (hf : realsFinite m = true) (k : Nat) :
    formatHeader m k = .ok (headerLines m k) := by
  simp [formatHeader, hh, hf]

/-- Everything FRAG of a whole record can do at a shift of 0 to 9 (44_framer.md R102). -/
theorem buildFragment_cases (cfg : Cfg) (index k : Nat) (ss : List Sym) (cur : Nat) (m : HeaderMeta) :
    (ss.length < cur ∧ buildFragment cfg index k ss cur (.ok m) = .error (.operandRange .cur)) ∨
      (cur ≤ ss.length ∧ index = 0 ∧ ¬(m.hours ≠ [] ∧ realsFinite m = true) ∧
        buildFragment cfg index k ss cur (.ok m) = .error (.operandRange .metadata)) ∨
        (cur ≤ ss.length ∧ index = 0 ∧ (m.hours ≠ [] ∧ realsFinite m = true) ∧
          buildFragment cfg index k ss cur (.ok m) = .ok (fragmentText cfg k (headerLines m k) ss cur)) ∨
          (cur ≤ ss.length ∧ index ≠ 0 ∧
            buildFragment cfg index k ss cur (.ok m) = .ok (fragmentText cfg k (dataLine index k) ss cur)) := by
  by_cases hc : ss.length < cur
  · exact .inl ⟨hc, by simp [buildFragment, hc]⟩
  by_cases hi : index = 0
  · by_cases hm : m.hours ≠ [] ∧ realsFinite m = true
    · exact .inr (.inr (.inl ⟨by omega, hi, hm, by
        simp only [buildFragment, hc, hi, if_false, if_true, bind, Except.bind, formatHeader_ok hm.1 hm.2]
        rfl⟩))
    · exact .inr (.inl ⟨by omega, hi, hm, by
        have hbad : formatHeader m k = .error (.operandRange .metadata) := by
          unfold formatHeader
          exact if_neg hm
        simp only [buildFragment, hc, hi, if_false, if_true, bind, Except.bind, hbad]⟩)
  · exact .inr (.inr (.inr ⟨by omega, hi, by simp [buildFragment, hc, hi]⟩))

end Sys2Proof.Machine
end

