-- ==== Sys2Proof/Laws/State.lean ====
section
/-! SUPPORT. One lemma per field of State per update: what the field is after it. Each is true by rfl and a simp rule, so that no
proof unfolds a record update. -/

namespace Sys2Proof.Machine

variable (s : State)

/-! ## answer -/

@[simp] theorem State.answer_cfg (v : Value) : (s.answer v).cfg = s.cfg := rfl
@[simp] theorem State.answer_state (v : Value) : (s.answer v).state = s.state := rfl
@[simp] theorem State.answer_shift (v : Value) : (s.answer v).shift = s.shift := rfl
@[simp] theorem State.answer_index (v : Value) : (s.answer v).index = s.index := rfl
@[simp] theorem State.answer_cursor (v : Value) : (s.answer v).cursor = s.cursor := rfl
@[simp] theorem State.answer_count (v : Value) : (s.answer v).count = s.count := rfl
@[simp] theorem State.answer_nsym (v : Value) : (s.answer v).nsym = s.nsym := rfl
@[simp] theorem State.answer_syms (v : Value) : (s.answer v).syms = s.syms := rfl
@[simp] theorem State.answer_header (v : Value) : (s.answer v).header = s.header := rfl
@[simp] theorem State.answer_txbuf (v : Value) : (s.answer v).txbuf = s.txbuf := rfl
@[simp] theorem State.answer_result (v : Value) : (s.answer v).result = s.result := rfl
@[simp] theorem State.answer_err (v : Value) : (s.answer v).err = s.err := rfl
@[simp] theorem State.answer_warnLat (v : Value) : (s.answer v).warnLat = s.warnLat := rfl
@[simp] theorem State.answer_warnLon (v : Value) : (s.answer v).warnLon = s.warnLon := rfl
@[simp] theorem State.answer_txlog (v : Value) : (s.answer v).txlog = s.txlog := rfl
@[simp] theorem State.answer_port (v : Value) : (s.answer v).port = s.port := rfl
@[simp] theorem State.answer_out (v : Value) : (s.answer v).out = .ok v := rfl
@[simp] theorem State.answer_pending (v : Value) : (s.answer v).pending = s.pending := rfl

/-! ## raise -/

@[simp] theorem State.raise_cfg (e : Err) : (s.raise e).cfg = s.cfg := rfl
@[simp] theorem State.raise_state (e : Err) : (s.raise e).state = s.state := rfl
@[simp] theorem State.raise_shift (e : Err) : (s.raise e).shift = s.shift := rfl
@[simp] theorem State.raise_index (e : Err) : (s.raise e).index = s.index := rfl
@[simp] theorem State.raise_cursor (e : Err) : (s.raise e).cursor = s.cursor := rfl
@[simp] theorem State.raise_count (e : Err) : (s.raise e).count = s.count := rfl
@[simp] theorem State.raise_nsym (e : Err) : (s.raise e).nsym = s.nsym := rfl
@[simp] theorem State.raise_syms (e : Err) : (s.raise e).syms = s.syms := rfl
@[simp] theorem State.raise_header (e : Err) : (s.raise e).header = s.header := rfl
@[simp] theorem State.raise_txbuf (e : Err) : (s.raise e).txbuf = s.txbuf := rfl
@[simp] theorem State.raise_result (e : Err) : (s.raise e).result = s.result := rfl
@[simp] theorem State.raise_err (e : Err) : (s.raise e).err = s.err := rfl
@[simp] theorem State.raise_warnLat (e : Err) : (s.raise e).warnLat = s.warnLat := rfl
@[simp] theorem State.raise_warnLon (e : Err) : (s.raise e).warnLon = s.warnLon := rfl
@[simp] theorem State.raise_txlog (e : Err) : (s.raise e).txlog = s.txlog := rfl
@[simp] theorem State.raise_port (e : Err) : (s.raise e).port = s.port := rfl
@[simp] theorem State.raise_out (e : Err) : (s.raise e).out = .err e := rfl
@[simp] theorem State.raise_pending (e : Err) : (s.raise e).pending = s.pending := rfl

/-! ## fault -/

@[simp] theorem State.fault_cfg (e : Err) : (s.fault e).cfg = s.cfg := rfl
@[simp] theorem State.fault_state (e : Err) : (s.fault e).state = .faulted := rfl
@[simp] theorem State.fault_shift (e : Err) : (s.fault e).shift = s.shift := rfl
@[simp] theorem State.fault_index (e : Err) : (s.fault e).index = s.index := rfl
@[simp] theorem State.fault_cursor (e : Err) : (s.fault e).cursor = s.cursor := rfl
@[simp] theorem State.fault_count (e : Err) : (s.fault e).count = s.count := rfl
@[simp] theorem State.fault_nsym (e : Err) : (s.fault e).nsym = s.nsym := rfl
@[simp] theorem State.fault_syms (e : Err) : (s.fault e).syms = s.syms := rfl
@[simp] theorem State.fault_header (e : Err) : (s.fault e).header = s.header := rfl
@[simp] theorem State.fault_txbuf (e : Err) : (s.fault e).txbuf = s.txbuf := rfl
@[simp] theorem State.fault_result (e : Err) : (s.fault e).result = .false := rfl
@[simp] theorem State.fault_err (e : Err) : (s.fault e).err = e.code := rfl
@[simp] theorem State.fault_warnLat (e : Err) : (s.fault e).warnLat = s.warnLat := rfl
@[simp] theorem State.fault_warnLon (e : Err) : (s.fault e).warnLon = s.warnLon := rfl
@[simp] theorem State.fault_txlog (e : Err) : (s.fault e).txlog = s.txlog := rfl
@[simp] theorem State.fault_port (e : Err) : (s.fault e).port = s.port := rfl
@[simp] theorem State.fault_out (e : Err) : (s.fault e).out = .err e := rfl
@[simp] theorem State.fault_pending (e : Err) : (s.fault e).pending = s.pending := rfl

/-! ## emit -/

@[simp] theorem State.emit_cfg (e : Event) : (s.emit e).cfg = s.cfg := rfl
@[simp] theorem State.emit_state (e : Event) : (s.emit e).state = s.state := rfl
@[simp] theorem State.emit_shift (e : Event) : (s.emit e).shift = s.shift := rfl
@[simp] theorem State.emit_index (e : Event) : (s.emit e).index = s.index := rfl
@[simp] theorem State.emit_cursor (e : Event) : (s.emit e).cursor = s.cursor := rfl
@[simp] theorem State.emit_count (e : Event) : (s.emit e).count = s.count := rfl
@[simp] theorem State.emit_nsym (e : Event) : (s.emit e).nsym = s.nsym := rfl
@[simp] theorem State.emit_syms (e : Event) : (s.emit e).syms = s.syms := rfl
@[simp] theorem State.emit_header (e : Event) : (s.emit e).header = s.header := rfl
@[simp] theorem State.emit_txbuf (e : Event) : (s.emit e).txbuf = s.txbuf := rfl
@[simp] theorem State.emit_result (e : Event) : (s.emit e).result = s.result := rfl
@[simp] theorem State.emit_err (e : Event) : (s.emit e).err = s.err := rfl
@[simp] theorem State.emit_warnLat (e : Event) : (s.emit e).warnLat = s.warnLat := rfl
@[simp] theorem State.emit_warnLon (e : Event) : (s.emit e).warnLon = s.warnLon := rfl
@[simp] theorem State.emit_txlog (e : Event) : (s.emit e).txlog = s.txlog ++ [e] := rfl
@[simp] theorem State.emit_port (e : Event) : (s.emit e).port = s.port := rfl
@[simp] theorem State.emit_out (e : Event) : (s.emit e).out = s.out := rfl
@[simp] theorem State.emit_pending (e : Event) : (s.emit e).pending = s.pending := rfl

/-! ## cleared -/

@[simp] theorem State.cleared_cfg : s.cleared.cfg = s.cfg := rfl
@[simp] theorem State.cleared_state : s.cleared.state = s.state := rfl
@[simp] theorem State.cleared_shift : s.cleared.shift = 0 := rfl
@[simp] theorem State.cleared_index : s.cleared.index = 0 := rfl
@[simp] theorem State.cleared_cursor : s.cleared.cursor = 0 := rfl
@[simp] theorem State.cleared_count : s.cleared.count = 0 := rfl
@[simp] theorem State.cleared_nsym : s.cleared.nsym = 0 := rfl
@[simp] theorem State.cleared_syms : s.cleared.syms = [] := rfl
@[simp] theorem State.cleared_header : s.cleared.header = s.header := rfl
@[simp] theorem State.cleared_txbuf : s.cleared.txbuf = [] := rfl
@[simp] theorem State.cleared_result : s.cleared.result = .none := rfl
@[simp] theorem State.cleared_err : s.cleared.err = .none := rfl
@[simp] theorem State.cleared_warnLat : s.cleared.warnLat = false := rfl
@[simp] theorem State.cleared_warnLon : s.cleared.warnLon = false := rfl
@[simp] theorem State.cleared_txlog : s.cleared.txlog = s.txlog := rfl
@[simp] theorem State.cleared_port : s.cleared.port = s.port := rfl
@[simp] theorem State.cleared_out : s.cleared.out = s.out := rfl
@[simp] theorem State.cleared_pending : s.cleared.pending = s.pending := rfl

/-! ## withField -/

@[simp] theorem State.withField_cfg (F : WindField) : (s.withField F).cfg = s.cfg := rfl
@[simp] theorem State.withField_state (F : WindField) : (s.withField F).state = s.state := rfl
@[simp] theorem State.withField_shift (F : WindField) : (s.withField F).shift = s.shift := rfl
@[simp] theorem State.withField_index (F : WindField) : (s.withField F).index = s.index := rfl
@[simp] theorem State.withField_cursor (F : WindField) : (s.withField F).cursor = s.cursor := rfl
@[simp] theorem State.withField_count (F : WindField) : (s.withField F).count = s.count := rfl
@[simp] theorem State.withField_nsym (F : WindField) : (s.withField F).nsym = s.nsym := rfl
@[simp] theorem State.withField_syms (F : WindField) : (s.withField F).syms = s.syms := rfl
@[simp] theorem State.withField_header (F : WindField) : (s.withField F).header = fieldMeta F := rfl
@[simp] theorem State.withField_txbuf (F : WindField) : (s.withField F).txbuf = s.txbuf := rfl
@[simp] theorem State.withField_result (F : WindField) : (s.withField F).result = s.result := rfl
@[simp] theorem State.withField_err (F : WindField) : (s.withField F).err = s.err := rfl
@[simp] theorem State.withField_warnLat (F : WindField) : (s.withField F).warnLat = irregularAxis s.cfg F.lat := rfl
@[simp] theorem State.withField_warnLon (F : WindField) : (s.withField F).warnLon = irregularAxis s.cfg F.lon := rfl
@[simp] theorem State.withField_txlog (F : WindField) : (s.withField F).txlog = s.txlog := rfl
@[simp] theorem State.withField_port (F : WindField) : (s.withField F).port = s.port := rfl
@[simp] theorem State.withField_out (F : WindField) : (s.withField F).out = s.out := rfl
@[simp] theorem State.withField_pending (F : WindField) : (s.withField F).pending = s.pending := rfl

/-! ## withSamples -/

@[simp] theorem State.withSamples_cfg (S : List Sample) : (s.withSamples S).cfg = s.cfg := rfl
@[simp] theorem State.withSamples_state (S : List Sample) : (s.withSamples S).state = s.state := rfl
@[simp] theorem State.withSamples_shift (S : List Sample) : (s.withSamples S).shift = s.shift := rfl
@[simp] theorem State.withSamples_index (S : List Sample) : (s.withSamples S).index = s.index := rfl
@[simp] theorem State.withSamples_cursor (S : List Sample) : (s.withSamples S).cursor = s.cursor := rfl
@[simp] theorem State.withSamples_count (S : List Sample) : (s.withSamples S).count = s.count := rfl
@[simp] theorem State.withSamples_nsym (S : List Sample) : (s.withSamples S).nsym = (groupBits (packSamples S)).length := rfl
@[simp] theorem State.withSamples_syms (S : List Sample) : (s.withSamples S).syms = groupBits (packSamples S) := rfl
@[simp] theorem State.withSamples_header (S : List Sample) : (s.withSamples S).header = s.header := rfl
@[simp] theorem State.withSamples_txbuf (S : List Sample) : (s.withSamples S).txbuf = s.txbuf := rfl
@[simp] theorem State.withSamples_result (S : List Sample) : (s.withSamples S).result = s.result := rfl
@[simp] theorem State.withSamples_err (S : List Sample) : (s.withSamples S).err = s.err := rfl
@[simp] theorem State.withSamples_warnLat (S : List Sample) : (s.withSamples S).warnLat = s.warnLat := rfl
@[simp] theorem State.withSamples_warnLon (S : List Sample) : (s.withSamples S).warnLon = s.warnLon := rfl
@[simp] theorem State.withSamples_txlog (S : List Sample) : (s.withSamples S).txlog = s.txlog := rfl
@[simp] theorem State.withSamples_port (S : List Sample) : (s.withSamples S).port = s.port := rfl
@[simp] theorem State.withSamples_out (S : List Sample) : (s.withSamples S).out = s.out := rfl
@[simp] theorem State.withSamples_pending (S : List Sample) : (s.withSamples S).pending = s.pending := rfl

/-! ## afterReset -/

@[simp] theorem State.afterReset_cfg : s.afterReset.cfg = s.cfg := rfl
@[simp] theorem State.afterReset_state : s.afterReset.state = .idle := rfl
@[simp] theorem State.afterReset_shift : s.afterReset.shift = 0 := rfl
@[simp] theorem State.afterReset_index : s.afterReset.index = 0 := rfl
@[simp] theorem State.afterReset_cursor : s.afterReset.cursor = 0 := rfl
@[simp] theorem State.afterReset_count : s.afterReset.count = 0 := rfl
@[simp] theorem State.afterReset_nsym : s.afterReset.nsym = 0 := rfl
@[simp] theorem State.afterReset_syms : s.afterReset.syms = [] := rfl
@[simp] theorem State.afterReset_header : s.afterReset.header = resetHeader := rfl
@[simp] theorem State.afterReset_txbuf : s.afterReset.txbuf = [] := rfl
@[simp] theorem State.afterReset_result : s.afterReset.result = .none := rfl
@[simp] theorem State.afterReset_err : s.afterReset.err = .none := rfl
@[simp] theorem State.afterReset_warnLat : s.afterReset.warnLat = false := rfl
@[simp] theorem State.afterReset_warnLon : s.afterReset.warnLon = false := rfl
@[simp] theorem State.afterReset_txlog : s.afterReset.txlog = [] := rfl
@[simp] theorem State.afterReset_port : s.afterReset.port = s.port := rfl
@[simp] theorem State.afterReset_out : s.afterReset.out = s.out := rfl
@[simp] theorem State.afterReset_pending : s.afterReset.pending = s.pending := rfl

/-! ## builtWith -/

@[simp] theorem State.builtWith_cfg (c : Cfg) : (s.builtWith c).cfg = c := rfl
@[simp] theorem State.builtWith_state (c : Cfg) : (s.builtWith c).state = .idle := rfl
@[simp] theorem State.builtWith_shift (c : Cfg) : (s.builtWith c).shift = 0 := rfl
@[simp] theorem State.builtWith_index (c : Cfg) : (s.builtWith c).index = 0 := rfl
@[simp] theorem State.builtWith_cursor (c : Cfg) : (s.builtWith c).cursor = 0 := rfl
@[simp] theorem State.builtWith_count (c : Cfg) : (s.builtWith c).count = 0 := rfl
@[simp] theorem State.builtWith_nsym (c : Cfg) : (s.builtWith c).nsym = 0 := rfl
@[simp] theorem State.builtWith_syms (c : Cfg) : (s.builtWith c).syms = [] := rfl
@[simp] theorem State.builtWith_header (c : Cfg) : (s.builtWith c).header = resetHeader := rfl
@[simp] theorem State.builtWith_txbuf (c : Cfg) : (s.builtWith c).txbuf = [] := rfl
@[simp] theorem State.builtWith_result (c : Cfg) : (s.builtWith c).result = .none := rfl
@[simp] theorem State.builtWith_err (c : Cfg) : (s.builtWith c).err = .none := rfl
@[simp] theorem State.builtWith_warnLat (c : Cfg) : (s.builtWith c).warnLat = false := rfl
@[simp] theorem State.builtWith_warnLon (c : Cfg) : (s.builtWith c).warnLon = false := rfl
@[simp] theorem State.builtWith_txlog (c : Cfg) : (s.builtWith c).txlog = [] := rfl
@[simp] theorem State.builtWith_port (c : Cfg) : (s.builtWith c).port = s.port := rfl
@[simp] theorem State.builtWith_out (c : Cfg) : (s.builtWith c).out = s.out := rfl
@[simp] theorem State.builtWith_pending (c : Cfg) : (s.builtWith c).pending = s.pending := rfl

/-! ## afterAct -/

@[simp] theorem State.afterAct_cfg (rest : List HostAct) : (s.afterAct rest).cfg = s.cfg := rfl
@[simp] theorem State.afterAct_state (rest : List HostAct) : (s.afterAct rest).state = s.state := rfl
@[simp] theorem State.afterAct_shift (rest : List HostAct) : (s.afterAct rest).shift = s.shift := rfl
@[simp] theorem State.afterAct_index (rest : List HostAct) : (s.afterAct rest).index = s.index := rfl
@[simp] theorem State.afterAct_cursor (rest : List HostAct) : (s.afterAct rest).cursor = s.cursor := rfl
@[simp] theorem State.afterAct_count (rest : List HostAct) : (s.afterAct rest).count = s.count := rfl
@[simp] theorem State.afterAct_nsym (rest : List HostAct) : (s.afterAct rest).nsym = s.nsym := rfl
@[simp] theorem State.afterAct_syms (rest : List HostAct) : (s.afterAct rest).syms = s.syms := rfl
@[simp] theorem State.afterAct_header (rest : List HostAct) : (s.afterAct rest).header = s.header := rfl
@[simp] theorem State.afterAct_txbuf (rest : List HostAct) : (s.afterAct rest).txbuf = s.txbuf := rfl
@[simp] theorem State.afterAct_result (rest : List HostAct) : (s.afterAct rest).result = s.result := rfl
@[simp] theorem State.afterAct_err (rest : List HostAct) : (s.afterAct rest).err = s.err := rfl
@[simp] theorem State.afterAct_warnLat (rest : List HostAct) : (s.afterAct rest).warnLat = s.warnLat := rfl
@[simp] theorem State.afterAct_warnLon (rest : List HostAct) : (s.afterAct rest).warnLon = s.warnLon := rfl
@[simp] theorem State.afterAct_txlog (rest : List HostAct) : (s.afterAct rest).txlog = s.txlog := rfl
@[simp] theorem State.afterAct_port (rest : List HostAct) : (s.afterAct rest).port = s.port := rfl
@[simp] theorem State.afterAct_out (rest : List HostAct) : (s.afterAct rest).out = s.out := rfl
@[simp] theorem State.afterAct_pending (rest : List HostAct) : (s.afterAct rest).pending = rest := rfl

/-! ## withOperands -/

@[simp] theorem State.withOperands_cfg (p : Port) (rest : List HostAct) : (s.withOperands p rest).cfg = s.cfg := rfl
@[simp] theorem State.withOperands_state (p : Port) (rest : List HostAct) : (s.withOperands p rest).state = s.state := rfl
@[simp] theorem State.withOperands_shift (p : Port) (rest : List HostAct) : (s.withOperands p rest).shift = s.shift := rfl
@[simp] theorem State.withOperands_index (p : Port) (rest : List HostAct) : (s.withOperands p rest).index = s.index := rfl
@[simp] theorem State.withOperands_cursor (p : Port) (rest : List HostAct) : (s.withOperands p rest).cursor = s.cursor := rfl
@[simp] theorem State.withOperands_count (p : Port) (rest : List HostAct) : (s.withOperands p rest).count = s.count := rfl
@[simp] theorem State.withOperands_nsym (p : Port) (rest : List HostAct) : (s.withOperands p rest).nsym = s.nsym := rfl
@[simp] theorem State.withOperands_syms (p : Port) (rest : List HostAct) : (s.withOperands p rest).syms = s.syms := rfl
@[simp] theorem State.withOperands_header (p : Port) (rest : List HostAct) : (s.withOperands p rest).header = s.header := rfl
@[simp] theorem State.withOperands_txbuf (p : Port) (rest : List HostAct) : (s.withOperands p rest).txbuf = s.txbuf := rfl
@[simp] theorem State.withOperands_result (p : Port) (rest : List HostAct) : (s.withOperands p rest).result = s.result := rfl
@[simp] theorem State.withOperands_err (p : Port) (rest : List HostAct) : (s.withOperands p rest).err = s.err := rfl
@[simp] theorem State.withOperands_warnLat (p : Port) (rest : List HostAct) : (s.withOperands p rest).warnLat = s.warnLat := rfl
@[simp] theorem State.withOperands_warnLon (p : Port) (rest : List HostAct) : (s.withOperands p rest).warnLon = s.warnLon := rfl
@[simp] theorem State.withOperands_txlog (p : Port) (rest : List HostAct) : (s.withOperands p rest).txlog = s.txlog := rfl
@[simp] theorem State.withOperands_port (p : Port) (rest : List HostAct) : (s.withOperands p rest).port = p := rfl
@[simp] theorem State.withOperands_out (p : Port) (rest : List HostAct) : (s.withOperands p rest).out = s.out := rfl
@[simp] theorem State.withOperands_pending (p : Port) (rest : List HostAct) : (s.withOperands p rest).pending = rest := rfl

end Sys2Proof.Machine
end

