-- ==== Sys2Proof/Laws/Ops.lean ====
section
/-! SUPPORT. What each shared operation can do, said once: the proofs cite these lemmas and do not unfold the operation. -/

namespace Sys2Proof.Machine

/-! ## The guard and the datapath -/

theorem guarded_eq_next {s t : State} (h : s.cfg.legal = true) : guarded s t = .next t := by
  simp [guarded, h]

theorem guarded_next_iff {s t r : State} : guarded s t = .next r ↔ s.cfg.legal = true ∧ r = t := by
  by_cases h : s.cfg.legal = true
  · simp only [guarded, h, if_true, Host.Outcome.next.injEq, true_and]
    exact eq_comm
  · simp [guarded, h]

@[simp] theorem State.finish_ok (s : State) (v : Value) : s.finish (.ok v) = { s with out := .ok v } := rfl

@[simp] theorem State.finish_error (s : State) (e : Err) : s.finish (.error e) = { s with out := .err e } := rfl

/-- A pure command changes nothing but the result port (60_exceptions.md R137). -/
theorem State.finish_frame (s : State) (r : Except Err Value) : s.finish r = { s with out := (s.finish r).out } := by
  cases r <;> rfl

/-- What a pure command puts on the result port does not depend on the state. -/
theorem State.finish_congr (s r : State) (x : Except Err Value) : r.finish x = { r with out := (s.finish x).out } := by
  cases x <;> rfl

theorem datapath_ok {s : State} (h : s.cfg.legal = true) (v : Value) :
    datapath s (.ok v) = .next { s with out := .ok v } := guarded_eq_next h

theorem datapath_error {s : State} (h : s.cfg.legal = true) (e : Err) :
    datapath s (.error e) = .next { s with out := .err e } := guarded_eq_next h

theorem datapath_next_iff {s t : State} {r : Except Err Value} :
    datapath s r = .next t ↔ s.cfg.legal = true ∧ t = s.finish r := guarded_next_iff

/-! ## Operands -/

theorem shiftOf_ok {cfg : Cfg} (h : cfg.legal = true) {shift : BitVec 4} (hs : shift.toNat ≤ 9) :
    shiftOf cfg shift = .ok shift.toNat := by
  simp [shiftOf, Cfg.legal_shiftLimit h, show shift.toNat < 10 by omega]

theorem shiftOf_error {cfg : Cfg} (h : cfg.legal = true) {shift : BitVec 4} (hs : 10 ≤ shift.toNat) :
    shiftOf cfg shift = .error (.shiftRange shift.toNat) := by
  simp [shiftOf, Cfg.legal_shiftLimit h, show ¬shift.toNat < 10 by omega]

theorem symbolsOf_ok {name : OperandName} {ns : List Nat} {ss : List Sym} (h : symbolsOf name ns = .ok ss) :
    (∀ n ∈ ns, n < 128) ∧ ss = ns.map (BitVec.ofNat 7) := by
  unfold symbolsOf at h
  split at h
  · next hall => exact ⟨by simpa using hall, by simpa using h.symm⟩
  · cases h

@[simp] theorem DateTimeOperand.of_whole (d : DateTime) : (DateTimeOperand.of d).whole = some d := rfl

@[simp] theorem MetaOperand.of_whole (m : HeaderMeta) : (MetaOperand.of m).whole = some m := rfl

@[simp] theorem HeaderOperand.of_whole (h : Header) : (HeaderOperand.of h).whole = some h := rfl

@[simp] theorem FragmentOperand.of_whole (f : DataFragment) : (FragmentOperand.of f).whole = some f := rfl

@[simp] theorem FieldOperand.of_whole (F : WindField) : (FieldOperand.of F).whole = some F := rfl

/-! ## The sequencer -/

/-- What Render is asked for: FRAG of the registers (44_framer.md R111). -/
def renderRequest (s : State) : Except Err (Text × Nat) := do
  let k ← shiftOf s.cfg s.shift
  buildFragment s.cfg s.index k s.syms s.cursor (.ok s.header)

/-- Everything Render can do (44_framer.md R111). -/
theorem render_cases (s before : State) :
    (∃ e, renderRequest s = .error e ∧ s.render before = before.raise e) ∨
      (∃ t, renderRequest s = .ok (t, 0) ∧ s.render before = s.fault (.frameOverflow s.index)) ∨
        ∃ t n, renderRequest s = .ok (t, n + 1) ∧
          s.render before =
            { s with
              txbuf := t, count := n + 1, state := .sending, txlog := s.txlog ++ [.send t], out := .ok .none } := by
  unfold State.render
  cases h : renderRequest s with
  | error e => exact .inl ⟨e, rfl, by simp only [renderRequest] at h; simp [h]⟩
  | ok r =>
    obtain ⟨t, n⟩ := r
    cases n with
    | zero => exact .inr (.inl ⟨t, rfl, by simp only [renderRequest] at h; simp [h]⟩)
    | succ n => exact .inr (.inr ⟨t, n, rfl, by simp only [renderRequest] at h; simp [h]⟩)

/-- Everything START of a complete field can do (44_framer.md R112). -/
theorem begin_cases (s : State) (F : WindField) :
    (∃ reason, fieldDefect F = some reason ∧ s.begin F = s.cleared.fault (.invalidField reason)) ∨
      (∃ e, fieldDefect F = none ∧ quantizeField s.cfg F = .error e ∧
        s.begin F = (s.cleared.withField F).fault e) ∨
        ∃ S, fieldDefect F = none ∧ quantizeField s.cfg F = .ok S ∧
          s.begin F = ((s.cleared.withField F).withSamples S).render s := by
  unfold State.begin
  cases hd : fieldDefect F with
  | some reason => exact .inl ⟨reason, rfl, rfl⟩
  | none =>
    cases hq : quantizeField s.cfg F with
    | error e => exact .inr (.inl ⟨e, rfl, rfl, rfl⟩)
    | ok S => exact .inr (.inr ⟨S, rfl, rfl, rfl⟩)

/-- Everything START can do (44_framer.md R112, 60_exceptions.md R140). -/
theorem startNext_cases (s : State) :
    (s.state = .sending ∧ s.startNext = s.raise (.illegalCommand .busy)) ∨
      (s.state ≠ .sending ∧ ∃ e, fieldOf s.port.F = .error e ∧ s.startNext = s.raise e) ∨
        (s.state ≠ .sending ∧ ∃ F, fieldOf s.port.F = .ok F ∧ s.startNext = s.begin F) := by
  unfold State.startNext
  by_cases hs : s.state = .sending
  · exact .inl ⟨hs, by simp [hs]⟩
  · cases hf : fieldOf s.port.F with
    | error e => exact .inr (.inl ⟨hs, e, rfl, by simp [hs]⟩)
    | ok F => exact .inr (.inr ⟨hs, F, rfl, by simp [hs]⟩)

/-- Everything SENDACK can do (44_framer.md R113). -/
theorem sendackNext_cases (s : State) (ok : Bool) :
    (s.state ≠ .sending ∧ s.sendackNext ok = s.raise (.illegalCommand .notSending)) ∨
      (s.state = .sending ∧ ok = true ∧ s.sendackNext ok = s.accepted) ∨
        (s.state = .sending ∧ ok = false ∧ s.sendackNext ok = s.rejected) := by
  unfold State.sendackNext
  by_cases hs : s.state = .sending <;> cases ok <;> simp [hs]

/-! ## The step -/

/-- Everything a step can do (20_memory.md R50). -/
theorem step_cases {s t : State} (h : step s = .next t) :
    (s.pending = [] ∧ t = s) ∨
      (∃ w p rest i, s.pending = .command w p :: rest ∧ decode w = .ok i ∧
        exec i (s.withOperands p rest) = .next t) ∨
        (∃ w p rest e, s.pending = .command w p :: rest ∧ decode w = .error e ∧ s.cfg.legal = true ∧
          t = (s.withOperands p rest).raise (.illegalCommand (.word w))) ∨
          (∃ rest, s.pending = .reset :: rest ∧ s.cfg.legal = true ∧ t = (s.afterAct rest).afterReset) ∨
            ∃ cfg rest, s.pending = .build cfg :: rest ∧ cfg.legal = true ∧ t = (s.afterAct rest).builtWith cfg := by
  unfold step at h
  split at h
  · next hp => exact .inl ⟨hp, by cases h; rfl⟩
  · next w p rest hp =>
    cases hd : decode w with
    | ok i => exact .inr (.inl ⟨w, p, rest, i, hp, hd, by simpa [hd] using h⟩)
    | error e =>
      simp only [hd] at h
      obtain ⟨hl, ht⟩ := guarded_next_iff.mp h
      exact .inr (.inr (.inl ⟨w, p, rest, e, hp, hd, hl, ht⟩))
  · next rest hp =>
    obtain ⟨hl, ht⟩ := guarded_next_iff.mp h
    exact .inr (.inr (.inr (.inl ⟨rest, hp, hl, ht⟩)))
  · next cfg rest hp =>
    obtain ⟨hl, ht⟩ := guarded_next_iff.mp h
    exact .inr (.inr (.inr (.inr ⟨cfg, rest, hp, by simpa using hl, ht⟩)))

end Sys2Proof.Machine
end

