-- ==== Sys2Proof/Laws/PerInstr.lean ====
section
/-! SUPPORT. For every command: its word is legal by the opcode table (spec/30_encoding.md R58, R59). -/

namespace Sys2Proof.Laws.WordLegal

/-- The word of the command belongs to a row of the opcode table. -/
def Statement (i : Instr) : Prop := wordLegal (encode i) = true

theorem rdstat : Statement (.rdstat) := by
  unfold Statement
  decide +kernel

theorem rdidx : Statement (.rdidx) := by
  unfold Statement
  decide +kernel

theorem encsym (value : Sym) (shift : BitVec 4) : Statement (.encsym value shift) := by
  unfold Statement
  revert value shift
  decide +kernel

theorem decsym (shift : BitVec 4) : Statement (.decsym shift) := by
  unfold Statement
  revert shift
  decide +kernel

theorem encstr (shift : BitVec 4) : Statement (.encstr shift) := by
  unfold Statement
  revert shift
  decide +kernel

theorem decstr (shift : BitVec 4) : Statement (.decstr shift) := by
  unfold Statement
  revert shift
  decide +kernel

theorem quant : Statement (.quant) := by
  unfold Statement
  decide +kernel

theorem dequant (mag dir : Nib) : Statement (.dequant mag dir) := by
  unfold Statement
  revert mag dir
  decide +kernel

theorem qfield : Statement (.qfield) := by
  unfold Statement
  decide +kernel

theorem pack : Statement (.pack) := by
  unfold Statement
  decide +kernel

theorem group : Statement (.group) := by
  unfold Statement
  decide +kernel

theorem split : Statement (.split) := by
  unfold Statement
  decide +kernel

theorem unpack : Statement (.unpack) := by
  unfold Statement
  decide +kernel

theorem symbits : Statement (.symbits) := by
  unfold Statement
  decide +kernel

theorem hdrfmt (shift : BitVec 4) : Statement (.hdrfmt shift) := by
  unfold Statement
  revert shift
  decide +kernel

theorem frag (shift : BitVec 4) : Statement (.frag shift) := by
  unfold Statement
  revert shift
  decide +kernel

theorem start : Statement (.start) := by
  unfold Statement
  decide +kernel

theorem sendack (ok : Bool) : Statement (.sendack ok) := by
  unfold Statement
  revert ok
  decide +kernel

theorem cancel : Statement (.cancel) := by
  unfold Statement
  decide +kernel

theorem rawsplit : Statement (.rawsplit) := by
  unfold Statement
  decide +kernel

theorem parsehdr : Statement (.parsehdr) := by
  unfold Statement
  decide +kernel

theorem parsefrag : Statement (.parsefrag) := by
  unfold Statement
  decide +kernel

theorem reasm : Statement (.reasm) := by
  unfold Statement
  decide +kernel

theorem axes : Statement (.axes) := by
  unfold Statement
  decide +kernel

theorem build : Statement (.build) := by
  unfold Statement
  decide +kernel

theorem decode : Statement (.decode) := by
  unfold Statement
  decide +kernel

end Sys2Proof.Laws.WordLegal
end

