-- ==== Sys2Proof/Laws/Text.lean ====
section
/-! SUPPORT. What the text primitives do, said once: joining, splitting and lines. -/

namespace Sys2Proof

@[simp] theorem joinTexts_nil (sep : Text) : joinTexts sep [] = [] := rfl

@[simp] theorem joinTexts_one (sep t : Text) : joinTexts sep [t] = t := rfl

theorem joinTexts_cons (sep t : Text) {ts : List Text} (h : ts ≠ []) :
    joinTexts sep (t :: ts) = t ++ sep ++ joinTexts sep ts := by
  cases ts with
  | nil => exact absurd rfl h
  | cons t' ts => rfl

theorem splitText_ne_nil (c : Char) (t : Text) : splitText c t ≠ [] := by
  cases t with
  | nil => simp [splitText]
  | cons x xs =>
    simp only [splitText]
    split
    · simp
    · split <;> simp

/-- A text without the separator is one piece. -/
theorem splitText_of_notMem {c : Char} {t : Text} (h : c ∉ t) : splitText c t = [t] := by
  induction t with
  | nil => rfl
  | cons x xs ih =>
    obtain ⟨hx, hxs⟩ : c ≠ x ∧ c ∉ xs := by simpa using h
    simp [splitText, Ne.symm hx, ih hxs]

/-- The first piece ends at the first separator. -/
theorem splitText_append {c : Char} {t : Text} (h : c ∉ t) (rest : Text) :
    splitText c (t ++ c :: rest) = t :: splitText c rest := by
  induction t with
  | nil => simp [splitText]
  | cons x xs ih =>
    obtain ⟨hx, hxs⟩ : c ≠ x ∧ c ∉ xs := by simpa using h
    simp [splitText, Ne.symm hx, ih hxs]

/-- Splitting undoes joining when no piece holds the separator. -/
theorem splitText_joinTexts {c : Char} {ts : List Text} (hne : ts ≠ []) (h : ∀ t ∈ ts, c ∉ t) :
    splitText c (joinTexts [c] ts) = ts := by
  induction ts with
  | nil => exact absurd rfl hne
  | cons t ts ih =>
    by_cases hts : ts = []
    · subst hts
      simpa using splitText_of_notMem (h t (List.mem_cons_self ..))
    · rw [joinTexts_cons _ _ hts, List.append_assoc, List.singleton_append,
        splitText_append (h t (List.mem_cons_self ..)),
        ih hts fun t' ht' => h t' (List.mem_cons_of_mem _ ht')]

theorem stripCr_of_ne {t : Text} (h : t.getLast? ≠ some cr) : stripCr t = t := by simp [stripCr, h]

end Sys2Proof
end

