-- ==== Sys2Proof/Tests/Slice0.lean ====
section
/-! SUPPORT. The model's own tests: ill-formed words and configurations refused, words written from the spec's encodings decoded,
one or two small steps of each command, and a concrete case that meets the hypotheses of each statement. Expected values come from
spec/95_test_vectors.md and the examples of the rules. -/

-- One theorem at a time: many small kernel evaluations side by side ask for more threads than the memory limit gives.
set_option Elab.async false

namespace Sys2Proof.Tests

open Sys2Proof.Machine

/-! ## Helpers -/

/-- The result port after a meaning. -/
def outOf : Result → Option Output
  | .next t => some t.out
  | _ => none

/-- The state after a step, or the reset state where there is none. -/
def stateOf : Result → State
  | .next t => t
  | _ => State.reset

/-- Whether a step answers a next state. -/
def goesOn : Result → Bool
  | .next _ => true
  | _ => false

theorem next_of_goesOn {r : Result} (h : goesOn r = true) : r = .next (stateOf r) := by
  cases r with
  | next t => rfl
  | fault f => cases h
  | refused f => cases h

/-- An integer as a binary64 value. -/
def real (n : Int) : F64 := F64.ofInt n

/-- The reset state with other operands. -/
def withPort (port : Port) : State := { State.reset with port := port }

/-- The value nearest to the angle pi / 4: the answer of ATAN2 at (5, 5) in 95_test_vectors.md. -/
def quarterPi : F64 := F64.ofDecimal false 7853981633974483 (-16)

/-- A configuration that names the points the tests use, with the values of 95_test_vectors.md. -/
def windCfg : Cfg :=
  { builtCfg with
    hypot := [(real 0, real 0, real 0), (real 5, real 5, F64.ofDecimal false 70710678118654755 (-16))]
    atan2 := [(real 0, real 0, real 0), (real 5, real 5, quarterPi)]
    sin := [(real 0, real 0), (quarterPi, F64.ofDecimal false 7071067811865475 (-16))]
    cos := [(real 0, real 1), (quarterPi, F64.ofDecimal false 7071067811865476 (-16))] }

theorem windCfg_legal : windCfg.legal = true := by decide +kernel

/-- A field of no wind with the given points on each axis. -/
def calmField (rows columns : Nat) : WindField where
  hours := [12]
  lat := (List.range rows).map fun i => real i
  lon := (List.range columns).map fun i => real i
  base := ⟨2026, 1, 1, 0, 0, 0⟩
  u := List.replicate (rows * columns) (real 0)
  v := List.replicate (rows * columns) (real 0)

/-- A port that carries a field. -/
def fieldPort (F : WindField) : Port := { resetPort with F := FieldOperand.of F }

/-- A block that may start an encode of a field. -/
def windState (F : WindField) : State := { State.reset with cfg := windCfg, port := fieldPort F }

/-- A block about to encode a field with the host's answers to come. -/
def encoding (F : WindField) (answers : List Bool) : State :=
  { windState F with pending := startAndAnswers (fieldPort F) answers }

/-- A header metadata record. -/
def sampleMeta : HeaderMeta where
  hours := [12, 24, 36, 48]
  base := ⟨2026, 1, 1, 0, 0, 0⟩
  latmin := real 25
  latmax := real 43
  lonmin := real (-29)
  lonmax := real (-7)
  latstep := real 2
  lonstep := real 2

/-- A header record of one cell. -/
def oneCell (payload : Text) : Header where
  hours := [12]
  base := ⟨2026, 1, 1, 0, 0, 0⟩
  latmin := real 25
  latmax := real 25
  lonmin := real 7
  lonmax := real 7
  latstep := real 2
  lonstep := real 2
  lat := [real 25]
  lon := [real 7]
  shift := 9
  payload := payload

/-- A block that waits for the answer to data fragment 1 of a message of `total` symbols 0, from symbol 5 on. -/
def waiting (total : Nat) (shift : BitVec 4) : State :=
  let r := fragmentText builtCfg shift.toNat (dataLine 1 shift.toNat) (List.replicate total 0) 5
  { State.reset with
    state := .sending, shift := shift, index := 1, cursor := 5, count := r.2, nsym := total,
    syms := List.replicate total 0, txbuf := r.1, txlog := [.send r.1] }

/-! ## Ill-formed words and configurations -/

theorem test_wordLegal_undefined_opcode : wordLegal 0x00000000 = false ∧ wordLegal 0x00000003 = false := by
  decide

theorem test_wordLegal_reserved_bits :
    wordLegal 0x00008010 = false ∧ wordLegal 0x00100012 = false ∧ wordLegal 0x01000020 = false ∧
      wordLegal 0x00000243 = false := by
  decide

theorem test_decode_refusals :
    decode 0x000000FF = .error .undefinedOpcode ∧ decode 0x00001021 = .error .reservedBit ∧
      decode 0x00010143 = .error .reservedBit := by
  decide

theorem test_safeSet_length_refused : ({ builtCfg with safeSet := builtSafeSet.drop 1 } : Cfg).legal = false := by
  decide +kernel

theorem test_safeSet_repeat_refused :
    ({ builtCfg with safeSet := '"' :: builtSafeSet.drop 1 } : Cfg).legal = false := by
  decide +kernel

theorem test_safeSet_escape_mark_refused :
    ({ builtCfg with safeSet := '@' :: builtSafeSet.drop 1 } : Cfg).legal = false := by
  decide +kernel

theorem test_safeSet_line_end_refused :
    ({ builtCfg with safeSet := '\n' :: builtSafeSet.drop 1 } : Cfg).legal = false := by
  decide +kernel

theorem test_safeSet_control_refused :
    ({ builtCfg with safeSet := Char.ofNat 127 :: builtSafeSet.drop 1 } : Cfg).legal = false := by
  decide +kernel

theorem test_escTable_refused :
    ({ builtCfg with escTable := builtEscTable.drop 1 } : Cfg).legal = false ∧
      ({ builtCfg with escTable := ['@', '\r'] :: builtEscTable.drop 1 } : Cfg).legal = false := by
  decide +kernel

theorem test_fixed_values_refused :
    ({ builtCfg with maxPayload := 160 } : Cfg).legal = false ∧
      ({ builtCfg with shiftLimit := 11 } : Cfg).legal = false := by
  decide +kernel

theorem test_factor_and_tolerance_refused :
    ({ builtCfg with ktPerMs := real 2 } : Cfg).legal = false ∧
      ({ builtCfg with spacingTol := real (-1) } : Cfg).legal = false := by
  decide +kernel

/-! ## Decoding: a word written from R56 and R58 for every command (opcode, then the field bytes A, B, C) -/

theorem test_decode_readers : decode 0x00000001 = .ok .rdstat ∧ decode 0x00000002 = .ok .rdidx := by decide

theorem test_decode_alphabet :
    decode 0x00037A10 = .ok (.encsym 122 3) ∧ decode 0x00090011 = .ok (.decsym 9) ∧
      decode 0x000F0012 = .ok (.encstr 15) ∧ decode 0x00040013 = .ok (.decstr 4) := by
  decide

theorem test_decode_quantizer :
    decode 0x00000020 = .ok .quant ∧ decode 0x00020321 = .ok (.dequant 3 2) ∧ decode 0x00000022 = .ok .qfield := by
  decide

theorem test_decode_bitpacker :
    decode 0x00000030 = .ok .pack ∧ decode 0x00000031 = .ok .group ∧ decode 0x00000032 = .ok .split ∧
      decode 0x00000033 = .ok .unpack ∧ decode 0x00000034 = .ok .symbits := by
  decide

theorem test_decode_framer :
    decode 0x00010040 = .ok (.hdrfmt 1) ∧ decode 0x00020041 = .ok (.frag 2) ∧ decode 0x00000042 = .ok .start ∧
      decode 0x00000143 = .ok (.sendack true) ∧ decode 0x00000043 = .ok (.sendack false) ∧
      decode 0x00000044 = .ok .cancel := by
  decide

theorem test_decode_engine :
    decode 0x00000050 = .ok .rawsplit ∧ decode 0x00000051 = .ok .parsehdr ∧ decode 0x00000052 = .ok .parsefrag ∧
      decode 0x00000053 = .ok .reasm ∧ decode 0x00000054 = .ok .axes ∧ decode 0x00000055 = .ok .build ∧
      decode 0x00000056 = .ok .decode := by
  decide

theorem test_encode_matches_table : encode (.encsym 127 9) = 0x00097F10 ∧ encode (.dequant 15 15) = 0x000F0F21 := by
  decide

theorem test_decodeTableWord : decodeTableWord 32 0x00020321 = some (.dequant 3 2) ∧ decodeTableWord 32 0 = none := by
  decide

/-! ## Binary64 and texts -/

/-- Vectors of F(x) in 95_test_vectors.md and 44_framer.md R99. -/
theorem test_floatText :
    floatText (real 25) = ['2', '5', '.', '0'] ∧ floatText (real (-7)) = ['-', '7', '.', '0'] ∧
      floatText (F64.neg F64.zero) = ['-', '0', '.', '0'] ∧
      floatText (F64.ofDecimal false 1 (-5)) = ['1', 'e', '-', '0', '5'] := by
  decide +kernel

/-- 0.1 + 0.2 is 0.30000000000000004 (44_framer.md R99). -/
theorem test_sum_of_tenths :
    floatText (F64.add (F64.ofDecimal false 1 (-1)) (F64.ofDecimal false 2 (-1))) =
      "0.30000000000000004".toList := by
  decide +kernel

/-- PI = 884279719003555 / 2^48 (00_scope.md R16), and PI8 is exact. -/
theorem test_pi :
    F64.pi = F64.div (real 884279719003555) (real (2 ^ 48)) ∧
      F64.mul F64.pi8 (real 8) = F64.pi := by
  decide +kernel

/-- RoundI(2.5) is 2 under EVEN and 3 under AWAY and UP (42_quantizer.md R83); RoundI(-0.5) is 0, -1 and 0. -/
theorem test_roundI_ties :
    let half : F64 := F64.ofDecimal true 5 (-1)
    let five : F64 := F64.ofDecimal false 25 (-1)
    let at_ := fun (x : F64) (ties : RoundTies) => match x with
      | .fin s m => roundI ties s m.val
      | _ => 99
    at_ five .even = 2 ∧ at_ five .away = 3 ∧ at_ five .up = 3 ∧ at_ half .even = 0 ∧ at_ half .away = -1 ∧
      at_ half .up = 0 := by
  decide +kernel

/-- A REAL is its exact value, with any number of zeros in front (30_encoding.md R72): 25.0 after 401 zeros, and 10^400 written
100 places down is 10^300. -/
theorem test_parseReal_leading_zeros :
    parseReal (List.replicate 401 '0' ++ "25.0".toList) = some (real 25) ∧
      parseReal ("0.".toList ++ List.replicate 99 '0' ++ "1e400".toList) = some (F64.ofDecimal false 1 300) := by
  decide +kernel

/-- A value whose `fl` is infinite is malformed, and one too small for any binary64 is a zero (30_encoding.md R72). -/
theorem test_parseReal_ends :
    parseReal "1e309".toList = none ∧ parseReal "1e999999999".toList = none ∧
      parseReal "1e-999999999".toList = some F64.zero ∧ parseReal "0e999999999".toList = some F64.zero := by
  decide +kernel

/-! ## One step of each command -/

theorem test_rdstat_after_reset : outOf (exec .rdstat State.reset) = some (.ok (.status 0)) := by decide +kernel

/-- 44_framer.md R116: STATE 3, RESULT 2, SHIFT 10 and ERR 5 read 0x00005A23. -/
theorem test_rdstat_exhausted :
    outOf (exec .rdstat
      { State.reset with state := .exhausted, result := .false, shift := 10, err := .retryExhausted }) =
      some (.ok (.status 0x00005A23)) := by
  decide +kernel

theorem test_rdidx_after_reset : outOf (exec .rdidx State.reset) = some (.ok (.position 0 0 0 0)) := by decide +kernel

/-- 41_alphabet.md R76: symbol 5 at shift 3 is character 8, `)` in the set of State.reset; 121 at shift 1 wraps to 0. -/
theorem test_encsym :
    outOf (exec (.encsym 5 3) State.reset) = some (.ok (.text [')'])) ∧
      outOf (exec (.encsym 121 1) State.reset) = some (.ok (.text ['!'])) := by
  decide +kernel

theorem test_decsym :
    outOf (exec (.decsym 3) (withPort { resetPort with t := [')'] })) = some (.ok (.symbol 5 1)) ∧
      outOf (exec (.decsym 3) (withPort { resetPort with t := ['@', '5'] })) = some (.ok (.symbol 127 2)) := by
  decide +kernel

theorem test_decsym_truncated :
    outOf (exec (.decsym 0) (withPort { resetPort with t := ['!', '@'], p := 1 })) =
      some (.err (.alphabetError none 1 .truncatedEscape)) := by
  decide +kernel

theorem test_encstr :
    outOf (exec (.encstr 0) (withPort { resetPort with ss := [0, 122, 121] })) =
      some (.ok (.text ['!', '@', '0', 'Ü'])) := by
  decide +kernel

/-- 41_alphabet.md R79: the same text at shift 1 gives 121, 122, 120. -/
theorem test_decstr :
    outOf (exec (.decstr 1) (withPort { resetPort with t := ['!', '@', '0', 'Ü'] })) =
      some (.ok (.symbols [121, 122, 120])) := by
  decide +kernel

/-- V-L1-1 of 95_test_vectors.md: (5, 5) is (3, 2). -/
theorem test_quant :
    outOf (exec .quant { State.reset with cfg := windCfg, port := { resetPort with u := real 5, v := real 5 } }) =
      some (.ok (.sample 3 2)) := by
  decide +kernel

theorem test_quant_infinite :
    outOf (exec .quant (withPort { resetPort with u := .inf false })) =
      some (.err (.invalidSample none (.inf false) F64.zero)) := by
  decide +kernel

/-- V-L1-1 of 95_test_vectors.md: the centre of (3, 2) is (5.45651993878005, 5.456519938780049). -/
theorem test_dequant :
    outOf (exec (.dequant 3 2) { State.reset with cfg := windCfg }) =
      some (.ok (.vector (F64.ofDecimal false 545651993878005 (-14))
        (F64.ofDecimal false 5456519938780049 (-15)))) := by
  decide +kernel

theorem test_qfield :
    outOf (exec .qfield (windState (calmField 1 2))) = some (.ok (.samples [(0, 0), (0, 0)])) := by
  decide +kernel

theorem test_qfield_bad_cell :
    outOf (exec .qfield (windState { calmField 1 2 with v := [real 0, .nan] })) =
      some (.err (.invalidSample (some 1) (real 0) .nan)) := by
  decide +kernel

theorem test_pack :
    outOf (exec .pack (withPort { resetPort with S := [(3, 2)] })) =
      some (.ok (.bits [false, false, true, true, false, false, true, false])) := by
  decide +kernel

theorem test_group :
    outOf (exec .group (withPort { resetPort with b := [0, 0, 1, 1, 0, 0, 1, 0] })) = some (.ok (.symbols [25, 0])) := by
  decide +kernel

theorem test_split :
    outOf (exec .split (withPort { resetPort with b := [0, 0, 1, 1, 0, 0, 1, 0, 0, 0, 0, 0, 0, 0] })) =
      some (.ok (.nibbles [3, 2, 0])) := by
  decide +kernel

theorem test_unpack :
    outOf (exec .unpack (withPort { resetPort with nb := [3, 2, 0], N := 1 })) = some (.ok (.samples [(3, 2)])) ∧
      outOf (exec .unpack (withPort { resetPort with nb := [3, 2, 0, 0], N := 1 })) =
        some (.err (.gridSizeMismatch 4 1)) := by
  decide +kernel

theorem test_symbits :
    outOf (exec .symbits (withPort { resetPort with ss := [25] })) =
      some (.ok (.bits [false, false, true, true, false, false, true])) := by
  decide +kernel

/-- The 63-character text of 44_framer.md R100. -/
theorem test_hdrfmt :
    outOf (exec (.hdrfmt 0) (withPort { resetPort with metadata := MetaOperand.of sampleMeta })) =
      some (.ok (.text "12,24,36,48\n2026-01-01 00:00:00\n25.0,43.0,-29.0,-7.0\n2.0,2.0\n0\n".toList)) := by
  decide +kernel

/-- A data fragment of two symbols that is the last one (30_encoding.md R69). -/
theorem test_frag :
    outOf (exec (.frag 2) (withPort { resetPort with index := 7, ss := [9, 0, 122], cur := 1 })) =
      some (.ok (.fragment "7,2\n#@0\nEND".toList 2)) := by
  decide +kernel

/-- 4 cells give 32 bits and 5 symbols; all fit in the header, whose text ends in END (44_framer.md R112). -/
theorem test_start :
    let t := stateOf (exec .start (windState (calmField 2 2)))
    t.state = .sending ∧ t.count = 5 ∧ t.nsym = 5 ∧
      t.txbuf = "12\n2026-01-01 00:00:00\n0.0,1.0,0.0,1.0\n1.0,1.0\n0\n!!!!!\nEND".toList := by
  decide +kernel

/-- 44_framer.md R107 and 60_exceptions.md R141: a field with no hours ends the encode. -/
theorem test_start_no_hours :
    let t := stateOf (exec .start (windState { calmField 2 2 with hours := [] }))
    t.statusWord = 0x00008024 ∧ t.out = .err (.invalidField .noHours) ∧ t.txlog = [] := by
  decide +kernel

theorem test_sendack_success :
    let t := stateOf (exec (.sendack true) (waiting 130 0))
    t.state = .sending ∧ t.index = 2 ∧ t.cursor = 121 ∧ t.count = 9 ∧
      t.txbuf = "2,0\n!!!!!!!!!\nEND".toList := by
  decide +kernel

theorem test_sendack_tenth_failure :
    let t := stateOf (exec (.sendack false) (waiting 7 9))
    t.statusWord = 0x00005A23 ∧ t.out = .err (.retryExhausted 1) := by
  decide +kernel

theorem test_cancel :
    (stateOf (exec .cancel (waiting 7 0))).statusWord = 0x0000C025 ∧
      (stateOf (exec .cancel State.reset)).statusWord = 0 := by
  decide +kernel

theorem test_rawsplit :
    outOf (exec .rawsplit (withPort { resetPort with ts := ["1,0\nxy\n".toList, "h1\r\n \nEND".toList] })) =
      some (.ok (.lines ["1,0".toList, "xy".toList, "h1".toList, " ".toList])) := by
  decide +kernel

/-- The lines of 45_reassembler.md R124. -/
def headerExample : List Text :=
  ["12,24,36,48".toList, "2026-01-01 00:00:00".toList, "25.0,43.0,-29.0,-7.0".toList, "2.0,2.0".toList, ['0'], ['P']]

theorem test_parsehdr :
    (match outOf (exec .parsehdr (withPort { resetPort with ls := headerExample })) with
      | some (.ok (.header h)) =>
        decide (h.hours = [12, 24, 36, 48] ∧ h.lat.length = 10 ∧ h.lon.length = 12 ∧ h.lat[9]? = some (real 43) ∧
          h.lon[1]? = some (real (-27)) ∧ h.shift = 0 ∧ h.payload = ['P'])
      | _ => false) = true := by
  decide +kernel

theorem test_parsehdr_bad_date :
    outOf (exec .parsehdr (withPort { resetPort with ls := headerExample.set 1 "2026-02-29 00:00:00".toList })) =
      some (.err (.malformedHeader .dateTime)) := by
  decide +kernel

theorem test_parsefrag :
    outOf (exec .parsefrag (withPort { resetPort with ls := [['5', ',', '0'], ['P']] })) =
        some (.ok (.dataFragment ⟨5, 0, ['P']⟩)) ∧
      outOf (exec .parsefrag (withPort { resetPort with ls := [['5', ';', '0'], ['P']] })) =
        some (.err (.malformedFragment .metadata)) := by
  decide +kernel

/-- Records with indices 3, 1, 2 are decoded in the order header, 1, 2, 3 (45_reassembler.md R126), each at its shift. -/
theorem test_reasm :
    outOf (exec .reasm (withPort { resetPort with
      hdr := HeaderOperand.of (oneCell [])
      frs := [⟨some 3, some 0, some ['$']⟩, ⟨some 1, some 0, some ['"']⟩, ⟨some 2, some 1, some ['$']⟩] })) =
      some (.ok (.bits (symbolBits [1, 2, 3]))) := by
  decide +kernel

/-- V-L1-2 of 95_test_vectors.md. -/
theorem test_axes :
    outOf (exec .axes (withPort { resetPort with lo := real 25, hi := real 31, step := real 2 })) =
        some (.ok (.axis [real 25, real 27, real 29, real 31])) ∧
      outOf (exec .axes (withPort { resetPort with lo := real 25, hi := real 31, step := real 0 })) =
        some (.err (.malformedHeader .axis)) := by
  decide +kernel

theorem test_build :
    (match outOf (exec .build { State.reset with
        cfg := windCfg
        port := { resetPort with hdr := HeaderOperand.of (oneCell []), bits := [0, 0, 1, 1, 0, 0, 1, 0, 1] } }) with
      | some (.ok (.field G)) =>
        decide (G.M = [3] ∧ G.D = [2] ∧ G.u = [F64.ofDecimal false 545651993878005 (-14)])
      | _ => false) = true := by
  decide +kernel

/-- A corpus of one cell: symbols 25 and 0 at shift 0 are the bits of sample (3, 2). -/
def oneCellCorpus : List Text := ["12\n2026-01-01 00:00:00\n25.0,25.0,7.0,7.0\n2.0,2.0\n0\n:!\nEND".toList]

theorem test_decode_corpus :
    (match outOf (exec .decode { State.reset with cfg := windCfg, port := { resetPort with ts := oneCellCorpus } }) with
      | some (.ok (.field G)) => decide (G.M = [3] ∧ G.D = [2] ∧ G.hours = [12] ∧ G.lat = [real 25])
      | _ => false) = true := by
  decide +kernel

theorem test_decode_unpaired :
    outOf (exec .decode { State.reset with
      cfg := windCfg, port := { resetPort with ts := oneCellCorpus ++ [['1', ',', '0']] } }) =
      some (.err (.malformedFragment .unpaired)) := by
  decide +kernel

/-! ## The step -/

theorem test_step_runs_fetched_word : outOf (step (State.reset.withFetchWord 32 0x00000002)) = some (.ok (.position 0 0 0 0)) := by
  decide +kernel

/-- ENCODE of a field whose one fragment is accepted at shift 1 takes two of four answers and yields true (30_encoding.md R74). -/
theorem test_encode_expansion :
    let F := calmField 2 2
    let acts := encodeActs (windState F) (fieldPort F) [false, true, false, true]
    acts = startAndAnswers (fieldPort F) [false, true] ∧
      encodeYield (stateOf (Host.Core.run Sys2Proof.core 3 { windState F with pending := acts })) = some true := by
  decide +kernel

/-- ENCODE of a field START refuses presents no answer and yields false. -/
theorem test_encode_expansion_refused :
    let F := { calmField 2 2 with hours := [] }
    let acts := encodeActs (windState F) (fieldPort F) [true]
    acts = startAndAnswers (fieldPort F) [] ∧
      encodeYield (stateOf (Host.Core.run Sys2Proof.core 1 { windState F with pending := acts })) = some false := by
  decide +kernel

theorem test_step_illegal_word :
    outOf (step { State.reset with pending := [.command 0 resetPort] }) =
      some (.err (.illegalCommand (.word 0))) := by
  decide +kernel

/-! ## Witnesses: for each statement with hypotheses, a concrete case of every clause that meets them together -/

theorem test_witness_EncodeDecode : decode 0x00097F10 = .ok (.encsym 127 9) := by decide

theorem test_witness_StepTakesNextAct :
    ({ State.reset with pending := [.command 0x00000002 resetPort] } : State).pending = .command 0x00000002 resetPort :: [] ∧
      decode 0x00000002 = .ok .rdidx ∧ decodeTableWord 32 0x00000002 = some .rdidx ∧ State.reset.pending = [] ∧
      ({ State.reset with pending := [.build windCfg] } : State).pending = .build windCfg :: [] ∧
      ({ State.reset with cfg := { builtCfg with maxPayload := 0 } } : State).cfg.legal = false := by
  decide +kernel

theorem test_witness_ResetRegisters :
    (waiting 130 0).cfg.legal = true ∧ ({ waiting 130 0 with pending := [.reset] } : State).pending = .reset :: [] :=
  ⟨builtCfg_legal, rfl⟩

theorem test_witness_IllegalCommandCases :
    State.reset.cfg.legal = true ∧ wordLegal 0x01000042 = false ∧ (waiting 130 0).state = .sending ∧
      State.reset.state ≠ .sending ∧ outOf (exec .start (waiting 130 0)) = some (.err (.illegalCommand .busy)) := by
  decide +kernel

theorem test_witness_OperandsUntouched : exec .pack State.reset = .next (stateOf (exec .pack State.reset)) :=
  next_of_goesOn (by decide +kernel)

theorem test_witness_DatapathPure :
    isPure .pack = true ∧ exec .pack State.reset = .next (stateOf (exec .pack State.reset)) ∧
      Instr.pack ≠ .rdstat ∧ Instr.pack ≠ .rdidx ∧ (waiting 130 0).cfg = State.reset.cfg ∧
      (waiting 130 0).port = State.reset.port :=
  ⟨rfl, next_of_goesOn (by decide +kernel), by decide, by decide, rfl, rfl⟩

theorem test_witness_SequencerFrame :
    exec (.sendack true) (waiting 130 0) = .next (stateOf (exec (.sendack true) (waiting 130 0))) ∧
      exec .cancel (waiting 130 0) = .next (stateOf (exec .cancel (waiting 130 0))) :=
  ⟨next_of_goesOn (by decide +kernel), next_of_goesOn (by decide +kernel)⟩

theorem test_witness_legal_configuration : State.reset.cfg.legal = true ∧ (windState (calmField 2 2)).cfg.legal = true :=
  ⟨builtCfg_legal, windCfg_legal⟩

theorem test_witness_ShiftRangeRaised : 10 ≤ (10 : BitVec 4).toNat ∧ 10 ≤ (15 : BitVec 4).toNat := by decide

theorem test_witness_OperandRangeRaised :
    (∃ n ∈ ({ resetPort with ss := [127, 128] } : Port).ss, 128 ≤ n) ∧
      (∃ q ∈ ({ resetPort with S := [(15, 16)] } : Port).S, 16 ≤ q.1 ∨ 16 ≤ q.2) ∧
      (∃ n ∈ ({ resetPort with b := [1, 2] } : Port).b, 2 ≤ n) ∧
      (∃ n ∈ ({ resetPort with nb := [15, 16] } : Port).nb, 16 ≤ n) ∧ resetPort.metadata.whole = none ∧
      resetPort.F.whole = none ∧ resetPort.hdr.whole = none ∧ State.reset.state ≠ .sending ∧
      (9 : BitVec 4).toNat ≤ 9 ∧
      (resetPort.ss = ([] : List Sym).map BitVec.toNat ∧ resetPort.cur ≤ ([] : List Sym).length ∧ resetPort.index = 0) ∧
      ((oneCell []).shift ≤ 9 ∧
        (∃ f ∈ ({ resetPort with frs := [⟨none, some 0, some []⟩] } : Port).frs, f.whole = none) ∧
        ∃ n ∈ ({ resetPort with bits := [1, 2] } : Port).bits, 2 ≤ n) := by
  decide

theorem test_witness_EncsymResult : (121 : Sym).toNat ≤ 121 ∧ 122 ≤ (122 : Sym).toNat ∧ (9 : BitVec 4).toNat ≤ 9 := by decide

theorem test_witness_DecsymResult :
    builtCfg.safeSet[0]? = some '!' ∧ ['!'][0]? = some '!' ∧
      builtCfg.escTable[5]? = some ['@', '5'] ∧ (['!', '@', '5'].drop 1).take 2 = ['@', '5'] ∧
      ['!'].length ≤ 1 ∧ (['!', '@'][1]? = some '@' ∧ ['!', '@'].length = 1 + 1) ∧
      (['@', '!'][0]? = some '@' ∧ 0 + 2 ≤ ['@', '!'].length ∧ (['@', '!'].drop 0).take 2 ∉ builtCfg.escTable) ∧
      ([nl][0]? = some nl ∧ nl ≠ '@' ∧ nl ∉ builtCfg.safeSet) := by
  decide +kernel

theorem test_witness_EncstrResult : ({ resetPort with ss := [0, 127] } : Port).ss = [(0 : Sym), 127].map BitVec.toNat := by
  decide

theorem test_witness_SymbolRoundTrip :
    exec (.encsym 127 9) State.reset = .next (stateOf (exec (.encsym 127 9) State.reset)) ∧
      (stateOf (exec (.encsym 127 9) State.reset)).out = .ok (.text ['@', '5']) ∧
      (withPort { resetPort with t := ['@', '5'] }).port.p = 0 :=
  ⟨next_of_goesOn (by decide +kernel), by decide +kernel, rfl⟩

theorem test_witness_TextRoundTrip :
    (withPort { resetPort with t := ['!', '@', '0', 'Ü'] }).port.t = encodeText builtCfg [0, 122, 121] 0 ∧
      (9 : BitVec 4).toNat ≤ 9 ∧ (0 : BitVec 4).toNat = 0 := by
  decide +kernel

theorem test_witness_DecstrFirstError :
    (withPort { resetPort with t := ['!', '@'] }).port.t = encodeText builtCfg [0] 0 ++ ['@'] ∧
      decodeHead builtCfg 0 ['@'] = .error .truncatedEscape := by
  decide +kernel

theorem test_witness_QuantResult :
    (real 5).isFinite = true ∧
      (F64.div (F64.mul (cfgHypot windCfg (real 5) (real 5)) windCfg.ktPerMs) (F64.ofInt 5)).isFinite = true ∧
      (F64.div (cfgAtan2 windCfg (real 5) (real 5)) F64.pi8).isFinite = true ∧ (F64.inf true).isFinite = false := by
  decide +kernel

/-- The value 2.5, a tie. -/
theorem test_witness_RoundIntegerNearest :
    ∃ code, f64OfCode false code = F64.ofDecimal false 25 (-1) ∧
      |2 * (roundI .even false code * (oneUnits : Int) - F64.signedUnits false code)| = (oneUnits : Int) :=
  ⟨4612811918334230528, by decide +kernel⟩

theorem test_witness_RoundingNearestEven :
    (0 < 2 ∧ roundUnits true 3 2 = f64OfCode true 2) ∧
      roundUnits true (unitsOfCode (f64InfCode - 1) + unitsOfCode f64InfCode) 2 = .inf true := by
  decide +kernel

theorem test_witness_QfieldResult :
    (windState (calmField 1 1)).port.F = FieldOperand.of (calmField 1 1) ∧
      (calmField 1 1).u.length = fieldCells (calmField 1 1) ∧ (calmField 1 1).v.length = fieldCells (calmField 1 1) ∧
      (∀ (c : Nat) (u v : F64), (calmField 1 1).u[c]? = some u → (calmField 1 1).v[c]? = some v →
        quantize windCfg u v = [((0, 0) : Sample)][c]?) := by
  refine ⟨rfl, by decide, by decide, fun c u v hu hv => ?_⟩
  have hu' : [real 0][c]? = some u := hu
  have hv' : [real 0][c]? = some v := hv
  cases c with
  | zero =>
    simp only [List.getElem?_cons_zero, Option.some.injEq] at hu' hv'
    subst hu' hv'
    decide +kernel
  | succ c => simp at hu'

theorem test_witness_QfieldResult_errors :
    ({ calmField 1 1 with u := [] } : WindField).u.length ≠ fieldCells { calmField 1 1 with u := [] } ∧
      (({ calmField 1 1 with u := [.nan] } : WindField).u[0]? = some .nan ∧ (calmField 1 1).v[0]? = some (real 0) ∧
        quantize windCfg .nan (real 0) = none ∧ ∀ d : Nat, ¬d < 0) := by
  refine ⟨by decide, rfl, by decide +kernel, by decide +kernel, fun d => Nat.not_lt_zero d⟩

theorem test_witness_bitpacker_operands :
    ({ resetPort with S := [(15, 0)] } : Port).S = [((15, 0) : Sample)].map (fun q => (q.1.toNat, q.2.toNat)) ∧
      ({ resetPort with b := [1, 0] } : Port).b = [true, false].map Bool.toNat ∧
      ({ resetPort with ss := [127] } : Port).ss = [(127 : Sym)].map BitVec.toNat ∧
      ({ resetPort with nb := [15, 0, 0] } : Port).nb = [(15 : Nib), 0, 0].map BitVec.toNat ∧
      [(15 : Nib), 0, 0].length = 2 * 1 + 1 ∧ [(15 : Nib), 0].length = 2 * 1 ∧
      [(15 : Nib), 0].length ≠ 2 * 0 ∧ [(15 : Nib), 0].length ≠ 2 * 0 + 1 := by
  decide

theorem test_witness_HdrfmtResult :
    sampleMeta.hours ≠ [] ∧
      (∀ x ∈ [sampleMeta.latmin, sampleMeta.latmax, sampleMeta.lonmin, sampleMeta.lonmax, sampleMeta.latstep,
        sampleMeta.lonstep], x.isFinite = true) ∧
      ({ sampleMeta with hours := [] } : HeaderMeta).hours = [] ∧ F64.nan.isFinite = false := by
  decide +kernel

theorem test_witness_FragResult :
    let port : Port := { resetPort with ss := [127, 0], cur := 2, metadata := MetaOperand.of sampleMeta }
    port.ss = [(127 : Sym), 0].map BitVec.toNat ∧ port.cur ≤ [(127 : Sym), 0].length ∧ port.index = 0 ∧
      sampleMeta.hours ≠ [] ∧ realsFinite sampleMeta = true ∧
      (({ port with ss := [127] } : Port).ss = [(127 : Sym)].map BitVec.toNat ∧ [(127 : Sym)].length < port.cur) ∧
      ({ resetPort with index := 1 } : Port).index ≠ 0 ∧ resetPort.metadata.whole = none ∧
      ({ sampleMeta with hours := [] } : HeaderMeta).hours = [] ∧
      realsFinite { sampleMeta with lonstep := .inf false } = false := by
  decide +kernel

theorem test_witness_FragShiftIndependent :
    let s := withPort { resetPort with index := 7, ss := [9, 0, 122], cur := 1 }
    exec (.frag 9) s = .next (stateOf (exec (.frag 9) s)) ∧
      (stateOf (exec (.frag 9) s)).out = .ok (.fragment "7,9\n*@0\nEND".toList 2) :=
  ⟨next_of_goesOn (by decide +kernel), by decide +kernel⟩

theorem test_witness_NumeralsReadBack : validDateTime ⟨2024, 2, 29, 23, 59, 59⟩ ∧ validDateTime ⟨1, 1, 1, 0, 0, 0⟩ := by
  unfold validDateTime; decide

theorem test_witness_RealsReadBack :
    (F64.neg F64.zero).isFinite = true ∧ (f64OfCode true 1).isFinite = true ∧
      (f64OfCode false (f64InfCode - 1)).isFinite = true := by
  decide +kernel

theorem test_witness_RealValueRead :
    ['0', '2'] ≠ [] ∧ (∀ c ∈ ['0', '2'] ++ ['5', '0'], isDigit c = true) ∧ parseExponent ['e', '-', '5'] = some (-5) ∧
      parseExponent [] = some 0 :=
  ⟨by decide, List.all_eq_true.mp (by decide +kernel), by decide +kernel, by decide +kernel⟩

theorem test_witness_StartChecksField :
    (windState (calmField 1 2)).state ≠ .sending ∧
      firstDefect { calmField 1 2 with hours := [] } .noHours ∧ firstDefect (calmField 1 2) .axisLength := by
  refine ⟨by decide, ⟨[], _, rfl, by simp, by simp [fieldMeets]⟩,
    ⟨[.noHours, .hoursOrder], _, rfl, by simp [fieldMeets, calmField], by simp [fieldMeets, calmField]⟩⟩

theorem test_witness_legal_field :
    fieldDefect (calmField 2 2) = none ∧ realsFinite (fieldMeta (calmField 2 2)) = true ∧
      quantizeCells windCfg 0 ((calmField 2 2).u.zip (calmField 2 2).v) = .ok (List.replicate 4 ((0, 0) : Sample)) ∧
      (fragmentText windCfg 0 (headerLines (fieldMeta (calmField 2 2)) 0)
        (groupBits (packSamples (List.replicate 4 ((0, 0) : Sample)))) 0).2 ≠ 0 := by
  decide +kernel

theorem test_witness_StartFaults_sample :
    let F : WindField := { calmField 2 2 with u := .nan :: List.replicate 3 (real 0) }
    fieldDefect F = none ∧ F.u[0]? = some .nan ∧ F.v[0]? = some (real 0) ∧ quantize windCfg .nan (real 0) = none := by
  decide +kernel

/-- 41 three-hourly offsets, the example of 44_framer.md R110. -/
theorem test_witness_StartFaults_overflow :
    let F : WindField :=
      { calmField 2 2 with
        hours := (List.range 41).map (3 * ·), u := List.replicate 164 (real 0), v := List.replicate 164 (real 0) }
    fieldDefect F = none ∧ quantizeCells windCfg 0 (F.u.zip F.v) = .ok (List.replicate 164 ((0, 0) : Sample)) ∧
      realsFinite (fieldMeta F) = true ∧ windCfg.capScope = .whole ∧
      groupBits (packSamples (List.replicate 164 ((0, 0) : Sample))) = 0 :: List.replicate 187 0 ∧
      120 < (headerLines (fieldMeta F) 0).length + (encodeSymbol windCfg 0 0).length := by
  decide +kernel

theorem test_witness_SendackResult :
    (waiting 7 0).state = .sending ∧ (waiting 7 0).cursor + (waiting 7 0).count = (waiting 7 0).nsym ∧
      ((waiting 130 0).cursor + (waiting 130 0).count ≠ (waiting 130 0).nsym ∧
        (waiting 130 0).cursor + (waiting 130 0).count ≤ (waiting 130 0).syms.length ∧
        (fragmentText builtCfg 0 (dataLine 2 0) (waiting 130 0).syms 121).2 ≠ 0) ∧
      (waiting 7 9).shift.toNat = 9 ∧
      ((waiting 7 8).shift.toNat < 9 ∧ (waiting 7 8).cursor ≤ (waiting 7 8).syms.length ∧ (waiting 7 8).index ≠ 0 ∧
        (fragmentText builtCfg 9 (metadataLines 1 9 resetHeader) (waiting 7 8).syms 5).2 ≠ 0) := by
  decide +kernel

/-- An index of 119 digits leaves no room for a symbol under WHOLE. -/
theorem test_witness_SendackResult_overflow :
    let s : State := { waiting 130 0 with index := 10 ^ 118 }
    s.state = .sending ∧ s.cursor + s.count ≠ s.nsym ∧ s.cursor + s.count ≤ s.syms.length ∧
      (fragmentText s.cfg 0 (dataLine (s.index + 1) 0) s.syms (s.cursor + s.count)).2 = 0 ∧
      (stateOf (exec (.sendack true) s)).statusWord = 0x00009024 ∧
      (stateOf (exec (.sendack true) s)).txlog = s.txlog ++ [.ack true] := by
  decide +kernel

theorem test_witness_CancelResult : (waiting 7 0).state = .sending ∧ State.reset.state ≠ .sending := by decide

/-- A waiting state that meets the invariant, whose fragment is not the last. -/
theorem test_witness_invariant_waiting : (waiting 130 8).Inv where
  legal := builtCfg_legal
  nsymIsLength := by decide +kernel
  cursorInRange := by decide +kernel
  countInRange := by decide +kernel
  shiftInRange := by decide +kernel
  shiftTen := by decide +kernel
  outcome := ⟨rfl, rfl⟩
  waiting := fun _ => ⟨by decide +kernel, by decide +kernel, by decide +kernel, by decide +kernel, by decide +kernel⟩

/-- A state with SHIFT at 10 that meets the invariant. -/
theorem test_witness_ShiftBounds :
    let s : State := { State.reset with state := .exhausted, shift := 10, result := .false, err := .retryExhausted }
    s.Inv ∧ s.shift.toNat = 10 ∧ step s = .next s :=
  ⟨⟨builtCfg_legal, rfl, Nat.le_refl _, Nat.zero_le _, by decide, by decide, ⟨rfl, rfl⟩, fun h => by cases h⟩, rfl, rfl⟩

theorem test_witness_InvariantKept :
    (waiting 130 8).state = .sending ∧ (waiting 130 8).shift.toNat < 9 ∧ (waiting 130 8).cfg.capScope = .whole ∧
      step (waiting 130 8) = .next (waiting 130 8) :=
  ⟨rfl, by decide, rfl, rfl⟩

theorem test_witness_TenFailuresExhaust :
    let s := encoding (calmField 2 2) (List.replicate 10 false)
    s.state ≠ .sending ∧ s.pending = startAndAnswers (fieldPort (calmField 2 2)) (List.replicate 10 false) ∧
      step s = .next (stateOf (step s)) ∧ (stateOf (step s)).state = .sending :=
  ⟨by decide, rfl, next_of_goesOn (by decide +kernel), by decide +kernel⟩

theorem test_witness_EncodeEnds :
    let s := encoding (calmField 2 2) (List.replicate 50 false)
    s.state ≠ .sending ∧ step s = .next (stateOf (step s)) ∧ (stateOf (step s)).state = .sending ∧
      (List.replicate 50 false).length = 10 * (stateOf (step s)).nsym :=
  ⟨by decide, next_of_goesOn (by decide +kernel), by decide +kernel, by decide +kernel⟩

/-- An encode of two fragments, the first one accepted at shift 1: 7 by 9 points are 72 symbols. -/
def twoFragments : State := encoding (calmField 7 9) [false, true, true]

/-- The state in which that encode ends. -/
def twoFragmentsEnd : State := stateOf (Host.Core.run Sys2Proof.core 4 twoFragments)

theorem test_witness_AcceptedRangesCover :
    twoFragments.state ≠ .sending ∧ step twoFragments = .next (stateOf (step twoFragments)) ∧
      (stateOf (step twoFragments)).state = .sending ∧
      Host.Core.run Sys2Proof.core 4 twoFragments = .next twoFragmentsEnd ∧ twoFragmentsEnd.state = .done :=
  ⟨by decide, next_of_goesOn (by decide +kernel), by decide +kernel, next_of_goesOn (by decide +kernel),
    by decide +kernel⟩

/-- The accepted texts of that encode. -/
def twoFragmentsTexts : List Text := acceptedTexts (eventsSince twoFragments twoFragmentsEnd)

theorem test_witness_CodecRoundTrip :
    let F := calmField 7 9
    let m := fieldMeta F
    let r : State := { State.reset with cfg := windCfg, port := { resetPort with ts := twoFragmentsTexts } }
    twoFragments.state ≠ .sending ∧ (fieldPort F).F = FieldOperand.of F ∧
      twoFragments.pending = startAndAnswers (fieldPort F) [false, true, true] ∧
      step twoFragments = .next (stateOf (step twoFragments)) ∧ (stateOf (step twoFragments)).state = .sending ∧
      Host.Core.run Sys2Proof.core 4 twoFragments = .next twoFragmentsEnd ∧ twoFragmentsEnd.state = .done ∧
      axisCount twoFragments.cfg m.latmin m.latmax m.latstep = some F.lat.length ∧
      axisCount twoFragments.cfg m.lonmin m.lonmax m.lonstep = some F.lon.length ∧
      acceptedTexts (eventsSince twoFragments twoFragmentsEnd) = twoFragmentsTexts.headD [] :: twoFragmentsTexts.drop 1 ∧
      (twoFragmentsTexts.drop 1).length = 1 ∧
      (∀ text ∈ twoFragmentsTexts.headD [] :: twoFragmentsTexts.drop 1, ∀ line ∈ (linesOf text).dropLast,
        line ≠ endToken) ∧
      (∀ x ∈ [m.latmin, m.latmax, m.lonmin, m.lonmax, m.latstep, m.lonstep], parseReal (floatText x) = some x) ∧
      (twoFragmentsTexts.drop 1).Perm (twoFragmentsTexts.drop 1) ∧ r.cfg = twoFragments.cfg ∧
      r.port.ts = twoFragmentsTexts.headD [] :: twoFragmentsTexts.drop 1 := by
  have htexts : twoFragmentsTexts = twoFragmentsTexts.headD [] :: twoFragmentsTexts.drop 1 := by decide +kernel
  refine ⟨by decide, rfl, rfl, next_of_goesOn (by decide +kernel), by decide +kernel,
    next_of_goesOn (by decide +kernel), by decide +kernel, by decide +kernel, by decide +kernel, htexts,
    by decide +kernel, by decide +kernel, by decide +kernel, List.Perm.refl _, by decide +kernel, by decide +kernel⟩

theorem test_witness_EncodeExpansion :
    (windState (calmField 2 2)).cfg.legal = true ∧ (windState (calmField 2 2)).state ≠ .sending ∧
      (windState (calmField 2 2)).Inv :=
  ⟨windCfg_legal, by decide,
    ⟨windCfg_legal, rfl, Nat.le_refl _, Nat.zero_le _, by decide, by decide, ⟨rfl, rfl⟩, fun h => by cases h⟩⟩

/-- Lines without a line end, one of them with two carriage returns at its end. -/
theorem test_witness_RawsplitResult :
    [['a', '\r', '\r'], [], endToken] ≠ [] ∧ (∀ l ∈ [['a', '\r', '\r'], [], endToken], '\n' ∉ l) ∧
      linesOf (joinTexts ['\n'] [['a', '\r', '\r'], [], endToken]) = [['a', '\r'], [], endToken] := by
  decide

theorem test_witness_EndHasNoEffect :
    let text : Text := ['1', ',', '0', nl, '!']
    (withPort { resetPort with ts := [text ++ [nl] ++ endToken] }).port.ts = [] ++ (text ++ [nl] ++ endToken) :: [] ∧
      (withPort { resetPort with ts := [text ++ [nl]] }).port.ts = [] ++ (text ++ [nl]) :: [] := by
  decide

/-- Each clause of the parser: the lines of the example, and a bad line in each place. -/
theorem test_witness_ParsehdrResult :
    parseList parseNat "12,24,36,48".toList = some [12, 24, 36, 48] ∧ parseList parseNat "12,,24".toList = none ∧
      parseDateTime "2026-01-01 00:00:00".toList = some ⟨2026, 1, 1, 0, 0, 0⟩ ∧ parseDateTime [] = none ∧
      parseList parseReal "25.0,43.0,-29.0,-7.0".toList = some [real 25, real 43, real (-29), real (-7)] ∧
      parseList parseReal ['1', '.'] = none ∧ parseList parseReal "2.0,2.0".toList = some [real 2, real 2] ∧
      parseNat ['0'] = some 0 ∧ parseNat ['9'] = some 9 ∧ parseNat ['1', '0'] = some 10 ∧
      (regenerateAxis builtCfg (real 25) (real 43) (real 2)).isSome = true ∧
      (regenerateAxis builtCfg (real (-29)) (real (-7)) (real 2)).isSome = true ∧
      regenerateAxis builtCfg (real 25) (real 43) (real 0) = none ∧ headerExample.length = 6 ∧
      (headerExample.take 5).length < 6 := by
  decide +kernel

/-- Each clause of the fragment parser, at the ends of its ranges. -/
theorem test_witness_ParsefragResult :
    parseList parseNat "03,1".toList = some [3, 1] ∧ parseList parseNat ['1', ',', '9'] = some [1, 9] ∧
      parseList parseNat ['0', ',', '9'] = some [0, 9] ∧ parseList parseNat ['1', ',', '1', '0'] = some [1, 10] ∧
      parseList parseNat ['5', ';', '0'] = none ∧ parseList parseNat ['5', ',', '0', ',', '1'] = some [5, 0, 1] ∧
      [['P']].length < 2 := by
  decide +kernel

/-- Two records in the wrong order, and two of one index. -/
theorem test_witness_ReasmResult :
    let frs : List DataFragment := [⟨2, 9, ['@', '0']⟩, ⟨1, 0, ['"']⟩]
    let message : List (Nat × Nat × List Sym) := [(1, 0, [1]), (2, 9, [122])]
    (oneCell ['@', '5']).shift ≤ 9 ∧
      (withPort { resetPort with frs := frs.map FragmentOperand.of }).port.frs = frs.map FragmentOperand.of ∧
      (∀ f ∈ frs, 1 ≤ f.index ∧ f.shift ≤ 9) ∧ (oneCell ['@', '5']).payload = encodeText builtCfg [127] 9 ∧
      (message.Pairwise fun a b => a.1 < b.1) ∧
      frs.Perm (message.map fun f => ⟨f.1, f.2.1, encodeText builtCfg f.2.2 f.2.1⟩) ∧
      1 < (([⟨1, 0, []⟩, ⟨1, 9, []⟩] : List DataFragment).map DataFragment.index).count 1 ∧
      ∀ m < 1, (([⟨1, 0, []⟩, ⟨1, 9, []⟩] : List DataFragment).map DataFragment.index).count m ≤ 1 := by
  decide +kernel

/-- A header that does not decode, and a fragment 2 that does not after a fragment 1 that does. -/
theorem test_witness_ReasmResult_errors :
    let frs : List DataFragment := [⟨2, 0, ['!', '@']⟩, ⟨1, 0, ['"']⟩]
    (frs.map DataFragment.index).Nodup ∧ decodeText builtCfg ['@'] 9 = .error (0, .truncatedEscape) ∧
      decodeText builtCfg (oneCell ['@', '5']).payload 9 = .ok [127] ∧
      decodeText builtCfg ['!', '@'] 0 = .error (1, .truncatedEscape) ∧ decodeText builtCfg ['"'] 0 = .ok [1] ∧
      ∀ g ∈ frs, g.index < 2 → g = ⟨1, 0, ['"']⟩ := by
  decide +kernel

theorem test_witness_AxesResult :
    (F64.lt F64.zero (real 2) = true ∧
      F64.div (F64.sub (real 43) (real 25)) (real 2) = real 9 ∧ (real 9).isFinite = true) ∧
      F64.div (F64.sub (real 25) (real 25)) (real 2) = real 0 ∧ F64.le (real 0) F64.zero = true ∧
      F64.div (F64.sub (real 23) (real 25)) (real 2) = real (-1) := by
  decide +kernel

theorem test_witness_BuildResult :
    headerCells (oneCell []) = [((3, 2) : Sample)].length ∧
      ({ resetPort with bits := [0, 0, 1, 1, 0, 0, 1, 0, 1, 1, 1, 1, 1, 1, 1] } : Port).bits =
        (packSamples [(3, 2)] ++ List.replicate 7 true).map Bool.toNat ∧
      (packSamples [(3, 2), (0, 0)]).length / 4 ≠ 2 * headerCells (oneCell []) ∧
      (packSamples [(3, 2), (0, 0)]).length / 4 ≠ 2 * headerCells (oneCell []) + 1 ∧
      [(25 : Sym)].length < (8 * headerCells (oneCell []) + 6) / 7 := by
  decide +kernel

/-- What an answer holds, for tests. -/
def valueOf {α : Type} (fallback : α) : Except Err α → α
  | .ok x => x
  | .error _ => fallback

theorem ok_of_valueOf {α : Type} {fallback : α} {r : Except Err α} (h : r.isOk = true) : r = .ok (valueOf fallback r) := by
  cases r with
  | ok x => rfl
  | error e => cases h

/-- The header record of the corpus of one cell. -/
def corpusHeader : Header := valueOf default (parseHeader windCfg (survivingLines oneCellCorpus))

theorem test_witness_DecodeResult :
    parseHeader windCfg (survivingLines oneCellCorpus) = .ok corpusHeader ∧
      (survivingLines oneCellCorpus).drop 6 = ([] : List (Text × Text)).flatMap (fun p => [p.1, p.2]) ∧
      reassemble windCfg corpusHeader [] = .ok (symbolBits [25, 0]) ∧
      rebuildField windCfg corpusHeader (symbolBits [25, 0]) =
        .ok (valueOf default (rebuildField windCfg corpusHeader (symbolBits [25, 0]))) ∧
      (survivingLines (oneCellCorpus ++ [['1', ',', '0']])).length % 2 = 1 :=
  ⟨ok_of_valueOf (by decide +kernel), by decide +kernel, by decide +kernel, ok_of_valueOf (by decide +kernel),
    by decide +kernel⟩

/-- Each error DECODE passes on: no lines, a good pair and a bad one, a fragment that does not decode, and a symbol too many. -/
theorem test_witness_DecodeResult_errors :
    let corpus := oneCellCorpus ++ ["1,0\n@\n0,0\n@".toList]
    parseHeader windCfg (survivingLines []) = .error (.malformedHeader .lineCount) ∧
      (parseHeader windCfg (survivingLines corpus)).isOk = true ∧
      (survivingLines corpus).drop 6 =
        ([(['1', ',', '0'], ['@']), (['0', ',', '0'], ['@'])] : List (Text × Text)).flatMap (fun p => [p.1, p.2]) ∧
      parseFragment [['1', ',', '0'], ['@']] = .ok ⟨1, 0, ['@']⟩ ∧
      parseFragment [['0', ',', '0'], ['@']] = .error (.malformedFragment .index) ∧
      reassemble windCfg corpusHeader [⟨1, 0, ['@']⟩] = .error (.alphabetError (some 1) 0 .truncatedEscape) ∧
      reassemble windCfg corpusHeader [⟨1, 0, ['!']⟩] = .ok (symbolBits [25, 0, 0]) ∧
      rebuildField windCfg corpusHeader (symbolBits [25, 0, 0]) = .error (.gridSizeMismatch 5 1) := by
  decide +kernel

end Sys2Proof.Tests
end

section
/-! PROOFS. Purity of the datapath and the decode engine (spec/00_scope.md R11). -/

namespace Sys2Proof.Machine

/-- Every command that is no sequencer command is one answer through `datapath`; where it is no reader either, the answer is the
same in two states with one configuration and one operand port, since every command of the last case reads `cfg` and `port` and no
other field. -/
theorem exec_eq_datapath {i : Instr} (h : isPure i = true) :
    ∃ answer : State → Except Err Value,
      (∀ s, exec i s = datapath s (answer s)) ∧
        (i ≠ .rdstat → i ≠ .rdidx → ∀ s r : State, r.cfg = s.cfg → r.port = s.port → answer r = answer s) := by
  cases i with
  | start | sendack _ | cancel => cases h
  | rdstat => exact ⟨_, fun _ => rfl, fun hne => absurd rfl hne⟩
  | rdidx => exact ⟨_, fun _ => rfl, fun _ hne => absurd rfl hne⟩
  | _ => exact ⟨_, fun _ => rfl, fun _ _ s r hcfg hport => by simp only [hcfg, hport]⟩

/-- Settles O9: the result of a command that is no sequencer command goes through `datapath`, which touches the result port alone. -/
theorem datapathPure : Obligations.DatapathPure := by
  intro i s t hpure hexec
  obtain ⟨answer, heq, hcongr⟩ := exec_eq_datapath hpure
  rw [heq] at hexec
  obtain ⟨hlegal, rfl⟩ := datapath_next_iff.mp hexec
  refine ⟨s.finish_frame _, fun hstat hidx r hcfg hport => ?_⟩
  rw [heq, hcongr hstat hidx s r hcfg hport, ← s.finish_congr r]
  exact datapath_next_iff.mpr ⟨hcfg ▸ hlegal, rfl⟩

end Sys2Proof.Machine
end

section
/-! PROOFS. RoundI and the one rounding of binary64 are to nearest (spec/00_scope.md R16, R17). -/

namespace Sys2Proof

/-! ## Rounding a quotient -/

/-- Whether a quotient with the remainder `rest` is rounded up: past the half, and at the half where `tieUp` says. -/
def roundsUp (rest unit : Nat) (tieUp : Bool) : Bool :=
  decide (unit < 2 * rest) || (decide (2 * rest = unit) && tieUp)

theorem roundsUp_iff (rest unit : Nat) (tieUp : Bool) :
    roundsUp rest unit tieUp = true ↔ unit < 2 * rest ∨ 2 * rest = unit ∧ tieUp = true := by
  simp [roundsUp]

/-- The rounded quotient is within half a unit of x, and where it is just half a unit off, `tieUp` has decided. -/
theorem roundsUp_nearest (x : Nat) {unit : Nat} (hunit : 0 < unit) {up tieUp : Bool}
    (hup : up = roundsUp (x % unit) unit tieUp) :
    2 * ((x / unit + up.toNat) * unit) ≤ 2 * x + unit ∧ 2 * x ≤ 2 * ((x / unit + up.toNat) * unit) + unit ∧
      (2 * ((x / unit + up.toNat) * unit) = 2 * x + unit ∨ 2 * x = 2 * ((x / unit + up.toNat) * unit) + unit →
        up = tieUp) := by
  have hdiv : x / unit * unit + x % unit = x := Nat.div_add_mod' x unit
  have hlt : x % unit < unit := Nat.mod_lt x hunit
  have hiff := roundsUp_iff (x % unit) unit tieUp
  rw [← hup] at hiff
  cases up with
  | true =>
    simp only [Bool.toNat_true, Nat.add_mul, Nat.one_mul]
    rcases hiff.mp rfl with hpast | ⟨hhalf, htie⟩
    · exact ⟨by omega, by omega, fun _ => by omega⟩
    · exact ⟨by omega, by omega, fun _ => htie.symm⟩
  | false =>
    obtain ⟨hpast, hhalf⟩ := not_or.mp fun h => Bool.false_ne_true (hiff.mpr h)
    simp only [Bool.toNat_false, Nat.add_zero]
    refine ⟨by omega, by omega, fun htie => ?_⟩
    exact (Bool.eq_false_iff.mpr fun h => hhalf ⟨by omega, h⟩).symm

/-! ## RoundI (00_scope.md R17) -/

/-- Where an exact half above `floor` goes in magnitude: up, or down to `floor`. -/
def tieRoundsUp : RoundTies → Bool → Nat → Bool
  | .even, _, floor => decide (floor % 2 = 1)
  | .away, _, _ => true
  | .up, neg, _ => !neg

/-- The magnitude of RoundI's answer for a magnitude of u units. -/
def roundMagnitude (ties : RoundTies) (neg : Bool) (u : Nat) : Nat :=
  u / oneUnits + (roundsUp (u % oneUnits) oneUnits (tieRoundsUp ties neg (u / oneUnits))).toNat

theorem roundI_eq (ties : RoundTies) (neg : Bool) (code : Nat) :
    roundI ties neg code =
      if neg then -(roundMagnitude ties neg (unitsOfCode code) : Int) else roundMagnitude ties neg (unitsOfCode code) := by
  cases ties <;> rfl

/-- The tie rule in terms of the magnitude (00_scope.md R17). -/
def tieObeyed (ties : RoundTies) (neg : Bool) (one u n : Nat) : Prop :=
  match ties with
  | .even => 2 ∣ n
  | .away => u ≤ n * one
  | .up => if neg then n * one ≤ u else u ≤ n * one

/-- One added to an odd number and nothing to an even one: the tie rule of EVEN gives an even number. -/
theorem add_parity_mod_two (n : Nat) : (n + (decide (n % 2 = 1)).toNat) % 2 = 0 := by
  rcases Nat.mod_two_eq_zero_or_one n with h | h <;> simp [h, Nat.add_mod]

theorem roundMagnitude_nearest (ties : RoundTies) (neg : Bool) (u : Nat) :
    2 * (roundMagnitude ties neg u * oneUnits) ≤ 2 * u + oneUnits ∧
      2 * u ≤ 2 * (roundMagnitude ties neg u * oneUnits) + oneUnits ∧
      (2 * (roundMagnitude ties neg u * oneUnits) = 2 * u + oneUnits ∨
        2 * u = 2 * (roundMagnitude ties neg u * oneUnits) + oneUnits →
          tieObeyed ties neg oneUnits u (roundMagnitude ties neg u)) := by
  have hone : 0 < oneUnits := pow_pos two_pos 1074
  unfold roundMagnitude
  generalize oneUnits = one at hone ⊢
  generalize hup : roundsUp (u % one) one (tieRoundsUp ties neg (u / one)) = up
  obtain ⟨hlow, hhigh, htie⟩ := roundsUp_nearest u hone hup.symm
  have hfloor : u / one * one ≤ u := Nat.div_mul_le_self u one
  have hceil : u ≤ (u / one + 1) * one := ((Nat.div_lt_iff_lt_mul hone).mp (Nat.lt_succ_self _)).le
  refine ⟨hlow, hhigh, fun h => ?_⟩
  rw [htie h]
  cases ties with
  | even => exact Nat.dvd_of_mod_eq_zero (add_parity_mod_two _)
  | away => exact hceil
  | up =>
    cases neg with
    | true => exact hfloor
    | false => exact hceil

/-- How far a signed integer of ones stands from a signed number of units is how far the magnitudes are apart. -/
theorem abs_signed_sub (neg : Bool) (n one u : Nat) :
    |2 * ((if neg then -(n : Int) else n) * one - if neg then -(u : Int) else u)| =
      |((2 * (n * one) : Nat) : Int) - (2 * u : Nat)| := by
  have hmul : ((2 * (n * one) : Nat) : Int) - (2 * u : Nat) = 2 * (n * one - u) := by push_cast; ring
  rw [hmul]
  cases neg with
  | false => rfl
  | true =>
    rw [← abs_neg]
    exact congrArg _ (by simp only [if_true]; ring)

/-- Settles O21: the magnitude is rounded to nearest, and the sign only turns it over. -/
theorem roundIntegerNearest : Obligations.RoundIntegerNearest := by
  intro ties neg code
  obtain ⟨hlow, hhigh, htie⟩ := roundMagnitude_nearest ties neg (unitsOfCode code)
  rw [roundI_eq, F64.signedUnits, abs_signed_sub]
  generalize roundMagnitude ties neg (unitsOfCode code) = n at *
  generalize unitsOfCode code = u at *
  generalize oneUnits = one at *
  refine ⟨abs_le.mpr ⟨by omega, by omega⟩, fun h => ?_⟩
  have hobeyed : tieObeyed ties neg one u n := htie (by rcases abs_eq (by omega) |>.mp h with h | h <;> omega)
  cases ties with
  | even =>
    have heven : (2 : Int) ∣ n := Int.natCast_dvd_natCast.mpr hobeyed
    cases neg with
    | true => exact heven.neg_right
    | false => exact heven
  | away =>
    have hle : (u : Int) ≤ n * one := by exact_mod_cast hobeyed
    cases neg <;> simpa [abs_mul] using hle
  | up =>
    cases neg with
    | true =>
      have hle : (n * one : Int) ≤ u := by exact_mod_cast hobeyed
      simpa using hle
    | false =>
      have hle : (u : Int) ≤ n * one := by exact_mod_cast hobeyed
      exact hle

/-! ## The codes of the magnitudes -/

/-- The magnitude of a code past the least binary exponent: 2^52 and the remainder g of the code, in last places of 2^e units. -/
theorem unitsOfCode_succ_exponent (e : Nat) {g : Nat} (hg : g < binade) :
    unitsOfCode ((e + 1) * binade + g) = (binade + g) * 2 ^ e := by
  have hbinade : 0 < binade := by decide
  have hquot : ((e + 1) * binade + g) / binade = e + 1 := by
    rw [Nat.add_comm, Nat.add_mul_div_right _ _ hbinade, Nat.div_eq_of_lt hg, Nat.zero_add]
  have hrest : ((e + 1) * binade + g) % binade = g := by rw [Nat.mul_add_mod', Nat.mod_eq_of_lt hg]
  have hbig : ¬(e + 1) * binade + g < binade :=
    Nat.not_lt.mpr (Nat.le_add_right_of_le (Nat.le_mul_of_pos_left _ e.succ_pos))
  rw [unitsOfCode, if_neg hbig, hquot, hrest, Nat.add_sub_cancel]

/-- The magnitude at the place f of the binary exponent e: f last places of 2^e units. Places start at 2^52 but for the least
exponent; the place 2^53 is the first of the next one. -/
theorem unitsOfCode_place {e f : Nat} (hlow : e = 0 ∨ binade ≤ f) (hhigh : f ≤ 2 * binade) :
    unitsOfCode (e * binade + f) = f * 2 ^ e := by
  by_cases hf : f < binade
  · obtain rfl : e = 0 := by omega
    simp [unitsOfCode, hf]
  · obtain ⟨g, rfl⟩ := Nat.exists_eq_add_of_le (Nat.not_lt.mp hf)
    rcases (show g ≤ binade by omega).lt_or_eq with hg | rfl
    · rw [← Nat.add_assoc, ← Nat.succ_mul, unitsOfCode_succ_exponent e hg]
    · rw [← Nat.add_assoc, ← Nat.succ_mul, ← Nat.succ_mul, ← Nat.add_zero ((e + 1).succ * binade),
        unitsOfCode_succ_exponent _ (by decide), pow_succ]
      ring

/-- Every code is a place below 2^53 of a binary exponent. -/
theorem exists_place (code : Nat) :
    ∃ e f, code = e * binade + f ∧ (e = 0 ∨ binade ≤ f) ∧ f < 2 * binade := by
  refine ⟨code / binade - 1, code - (code / binade - 1) * binade, ?_, ?_, ?_⟩ <;> simp only [binade] <;> omega

/-- Codes count the magnitudes in rising order. -/
theorem unitsOfCode_strictMono : StrictMono unitsOfCode := by
  refine strictMono_nat_of_lt_succ fun code => ?_
  obtain ⟨e, f, rfl, hlow, hhigh⟩ := exists_place code
  rw [unitsOfCode_place hlow hhigh.le, Nat.add_assoc, unitsOfCode_place (by omega) hhigh]
  exact Nat.mul_lt_mul_of_pos_right (Nat.lt_succ_self f) (Nat.two_pow_pos e)

/-! ## The nearest place of a rising scale -/

/-- The place c of a scale is the one nearest to x, the even one of two as near: x is not past the middle of c and any other
place, and on a middle c is even. -/
structure NearestPlace (scale : Nat → Nat) (x c : Nat) : Prop where
  below : ∀ n < c, scale n + scale c ≤ 2 * x
  above : ∀ n > c, 2 * x ≤ scale c + scale n
  tie : ∀ n ≠ c, 2 * x = scale n + scale c → c % 2 = 0

section
variable {scale : Nat → Nat} {x c : Nat}

/-- Only the two places around x compete. -/
theorem NearestPlace.of_neighbours (hmono : StrictMono scale) {low : Nat} (hlow : scale low ≤ x)
    (hhigh : x < scale (low + 1)) {up : Bool}
    (hdown : up = false → 2 * x ≤ scale low + scale (low + 1))
    (hup : up = true → scale low + scale (low + 1) ≤ 2 * x)
    (htie : 2 * x = scale low + scale (low + 1) → up = decide (low % 2 = 1)) :
    NearestPlace scale x (low + up.toNat) := by
  have hle {a b : Nat} (hab : a ≤ b) : scale a ≤ scale b := hmono.monotone hab
  have heven (h : 2 * x = scale low + scale (low + 1)) : (low + up.toNat) % 2 = 0 := by
    rw [htie h]
    exact add_parity_mod_two low
  cases up with
  | false =>
    have hmid := hdown rfl
    rw [Bool.toNat_false, Nat.add_zero] at heven ⊢
    refine ⟨fun n hn => ?_, fun n hn => ?_, fun n hne heq => ?_⟩
    · have := hmono hn
      omega
    · have := hle (show low + 1 ≤ n from hn)
      omega
    · rcases hne.lt_or_gt with hn | hn
      · have := hmono hn
        omega
      · have := hle (show low + 1 ≤ n from hn)
        exact heven (by omega)
  | true =>
    have hmid := hup rfl
    rw [Bool.toNat_true] at heven ⊢
    refine ⟨fun n hn => ?_, fun n hn => ?_, fun n hne heq => ?_⟩
    · have := hle (show n ≤ low from Nat.le_of_lt_succ hn)
      omega
    · have := hmono hn
      omega
    · rcases hne.lt_or_gt with hn | hn
      · have := hle (show n ≤ low from Nat.le_of_lt_succ hn)
        exact heven (by omega)
      · have := hmono hn
        omega

/-- No place is nearer than the nearest, and where another is as near, the nearest is even. -/
theorem NearestPlace.dist_le (h : NearestPlace scale x c) (hmono : StrictMono scale) (n : Nat) :
    |(x : Int) - scale c| ≤ |(x : Int) - scale n| ∧
      (|(x : Int) - scale c| = |(x : Int) - scale n| → n ≠ c → c % 2 = 0) := by
  have htie := h.tie n
  rcases Nat.lt_trichotomy n c with hn | rfl | hn
  · have hmid := h.below n hn
    have hlt := hmono hn
    grind
  · simp
  · have hmid := h.above n hn
    have hlt := hmono hn
    grind

/-- The nearest place lies past an odd place `last` exactly from the middle of `last` and the place after it on. -/
theorem NearestPlace.gt_iff (h : NearestPlace scale x c) (hmono : StrictMono scale) {last : Nat} (hodd : last % 2 = 1) :
    last < c ↔ scale last + scale (last + 1) ≤ 2 * x := by
  have hle {a b : Nat} (hab : a ≤ b) : scale a ≤ scale b := hmono.monotone hab
  constructor
  · intro hlast
    have := h.below last hlast
    have := hle (show last + 1 ≤ c from hlast)
    omega
  · intro hmid
    by_contra hc
    have := h.above (last + 1) (by omega)
    have := h.tie (last + 1) (by omega)
    have := hle (show c ≤ last by omega)
    rcases (show c ≤ last by omega).lt_or_eq with hlt | rfl
    · have := hmono hlt
      omega
    · omega

end

/-! ## The one rounding (00_scope.md R16) -/

/-- The place of the value in its binary exponent, before it is rounded: 2^52 or more past the least exponent, below 2^53. -/
theorem floor_place (num den : Nat) :
    ((num / den).log2 - 52 = 0 ∨ binade ≤ num / (den * 2 ^ ((num / den).log2 - 52))) ∧
      num / (den * 2 ^ ((num / den).log2 - 52)) < 2 * binade := by
  rw [← Nat.div_div_eq_div_mul]
  generalize num / den = q
  have htop : q < 2 ^ (q.log2 + 1) := Nat.lt_log2_self
  constructor
  · by_cases hsmall : q.log2 ≤ 52
    · omega
    · right
      have hq : q ≠ 0 := by rintro rfl; simp at hsmall
      rw [Nat.le_div_iff_mul_le (Nat.two_pow_pos _)]
      calc binade * 2 ^ (q.log2 - 52) = 2 ^ q.log2 := by
            rw [show binade = 2 ^ 52 by rfl, ← pow_add]; congr 1; omega
        _ ≤ q := Nat.log2_self_le hq
  · rw [Nat.div_lt_iff_lt_mul (Nat.two_pow_pos _)]
    calc q < 2 ^ (q.log2 + 1) := htop
      _ ≤ 2 ^ (53 + (q.log2 - 52)) := Nat.pow_le_pow_right two_pos (by omega)
      _ = 2 * binade * 2 ^ (q.log2 - 52) := by rw [pow_add]; rfl

theorem scaledUnits_strictMono {den : Nat} (hden : 0 < den) : StrictMono fun code => den * unitsOfCode code :=
  fun _ _ h => Nat.mul_lt_mul_of_pos_left (unitsOfCode_strictMono h) hden

/-- `roundUnits` answers the value with the nearest code, the even one of two as near. -/
theorem roundUnits_nearest (neg : Bool) (num : Nat) {den : Nat} (hden : 0 < den) :
    ∃ c, roundUnits neg num den = f64OfCode neg c ∧ NearestPlace (fun code => den * unitsOfCode code) num c := by
  obtain ⟨hplace, htop⟩ := floor_place num den
  generalize hshift : (num / den).log2 - 52 = shift at hplace htop
  generalize hfloor : num / (den * 2 ^ shift) = floor at hplace htop
  generalize hup : roundsUp (num % (den * 2 ^ shift)) (den * 2 ^ shift) (decide (floor % 2 = 1)) = up
  have hunit : 0 < den * 2 ^ shift := Nat.mul_pos hden (Nat.two_pow_pos _)
  have hvalue : den * unitsOfCode (shift * binade + floor) = floor * (den * 2 ^ shift) := by
    rw [unitsOfCode_place hplace htop.le, Nat.mul_left_comm]
  have hnext : den * unitsOfCode (shift * binade + floor + 1) = (floor + 1) * (den * 2 ^ shift) := by
    rw [Nat.add_assoc, unitsOfCode_place (by omega) htop, Nat.mul_left_comm]
  have hparity : (shift * binade + floor) % 2 = floor % 2 := by simp only [binade]; omega
  obtain ⟨hbelow, habove, htie⟩ := roundsUp_nearest num hunit hup.symm
  rw [hfloor] at hbelow habove htie
  refine ⟨shift * binade + floor + up.toNat, ?_, NearestPlace.of_neighbours (scaledUnits_strictMono hden) ?_ ?_ ?_ ?_ ?_⟩
  · rw [Nat.add_assoc, ← hup, ← hfloor, ← hshift]
    rfl
  · simp only [hvalue]
    rw [← hfloor]
    exact Nat.div_mul_le_self _ _
  · simp only [hnext]
    rw [← hfloor]
    exact (Nat.div_lt_iff_lt_mul hunit).mp (Nat.lt_succ_self _)
  · rintro rfl
    simp only [hvalue, hnext, Nat.add_mul, Bool.toNat_false, Nat.add_zero] at habove ⊢
    omega
  · rintro rfl
    simp only [hvalue, hnext, Nat.add_mul, Bool.toNat_true] at hbelow ⊢
    omega
  · simp only [hvalue, hnext, hparity]
    intro hmid
    refine htie ?_
    cases up with
    | false => exact .inr (by simp only [Nat.add_mul, Bool.toNat_false] at hmid ⊢; omega)
    | true => exact .inl (by simp only [Nat.add_mul, Bool.toNat_true] at hmid ⊢; omega)

theorem f64OfCode_eq_inf_iff (neg : Bool) (code : Nat) : f64OfCode neg code = .inf neg ↔ f64InfCode ≤ code := by
  unfold f64OfCode
  split
  · next h => simp [Nat.not_le.mpr h]
  · next h => simp [Nat.not_lt.mp h]

theorem f64OfCode_of_lt (neg : Bool) {code : Nat} (h : code < f64InfCode) : f64OfCode neg code = .fin neg ⟨code, h⟩ :=
  dif_pos h

/-- Settles O22: the code answered is the nearest place of the scale of all magnitudes, 2^1024 among them, and the place before
that one is odd. -/
theorem roundingNearestEven : Obligations.RoundingNearestEven := by
  intro neg num den hden
  obtain ⟨c, hc, hnear⟩ := roundUnits_nearest neg num hden
  have hmono := scaledUnits_strictMono hden
  rw [hc, Nat.mul_add, Ne, f64OfCode_eq_inf_iff]
  refine ⟨hnear.gt_iff hmono (last := f64InfCode - 1) (by decide), fun hfin => ?_⟩
  refine ⟨⟨c, Nat.not_le.mp hfin⟩, f64OfCode_of_lt neg _, fun n _ => ?_⟩
  exact_mod_cast hnear.dist_le hmono n

end Sys2Proof
end

section
/-! PROOFS. Numerals and the date line read back (spec/00_scope.md R19; 30_encoding.md R71, R72). -/

namespace Sys2Proof

/-! ## Digits -/

/-- What reading one more digit does to the number read so far. -/
def readDigit (n : Nat) (c : Char) : Nat := 10 * n + (c.toNat - 48)

theorem natOfDigits_eq (t : Text) : natOfDigits t = t.foldl readDigit 0 := rfl

theorem digitChar_toNat {d : Nat} (hd : d < 10) : (digitChar d).toNat = 48 + d := by
  interval_cases d <;> rfl

theorem isDigit_digitChar {d : Nat} (hd : d < 10) : isDigit (digitChar d) = true := by
  simp only [isDigit, digitChar_toNat hd, Bool.and_eq_true, decide_eq_true_eq]
  omega

theorem readDigit_digitChar (n : Nat) {d : Nat} (hd : d < 10) : readDigit n (digitChar d) = 10 * n + d := by
  rw [readDigit, digitChar_toNat hd, Nat.add_sub_cancel_left]

/-! ## Numerals (00_scope.md R19) -/

section
variable {fuel n : Nat} (acc : Text)

/-- The numeral in front of `acc`, read from 0, leaves the number itself to read `acc` from. -/
theorem decLoop_foldl (h : n < 10 ^ fuel) : (decLoop fuel n acc).foldl readDigit 0 = acc.foldl readDigit n := by
  induction fuel generalizing n acc with
  | zero =>
    obtain rfl : n = 0 := by simpa using h
    rfl
  | succ fuel ih =>
    rw [decLoop]
    split
    · next hn => rw [List.foldl_cons, readDigit_digitChar 0 hn, Nat.mul_zero, Nat.zero_add]
    · rw [ih _ (by rw [pow_succ] at h; omega), List.foldl_cons, readDigit_digitChar _ (by omega), Nat.div_add_mod]

theorem decLoop_all_isDigit (h : acc.all isDigit = true) : (decLoop fuel n acc).all isDigit = true := by
  induction fuel generalizing n acc with
  | zero => exact h
  | succ fuel ih =>
    rw [decLoop]
    split
    · next hn => rw [List.all_cons, isDigit_digitChar hn, h, Bool.and_true]
    · exact ih _ (by rw [List.all_cons, isDigit_digitChar (by omega), h, Bool.and_true])

theorem length_le_decLoop : acc.length ≤ (decLoop fuel n acc).length := by
  induction fuel generalizing n acc with
  | zero => exact le_rfl
  | succ fuel ih =>
    rw [decLoop]
    split
    · exact Nat.le_succ _
    · exact (Nat.le_succ _).trans (ih (digitChar (n % 10) :: acc))

theorem decLoop_length_le {width : Nat} (hwidth : 0 < width) (h : n < 10 ^ width) :
    (decLoop fuel n acc).length ≤ width + acc.length := by
  induction fuel generalizing n acc width with
  | zero => exact Nat.le_add_left _ _
  | succ fuel ih =>
    rw [decLoop]
    split
    · rw [List.length_cons]
      omega
    · next hn =>
      obtain ⟨w, rfl⟩ := Nat.exists_eq_succ_of_ne_zero hwidth.ne'
      have hw : 0 < w := by
        by_contra hzero
        obtain rfl : w = 0 := by omega
        exact hn h
      have := ih (digitChar (n % 10) :: acc) hw (n := n / 10) (by rw [pow_succ] at h; omega)
      rw [List.length_cons] at this
      omega

end

/-- The fuel of `dec` is digits enough. -/
theorem lt_ten_pow_log2 (n : Nat) : n < 10 ^ (n.log2 + 1) :=
  Nat.lt_log2_self.trans_le (Nat.pow_le_pow_left (by decide) _)

theorem natOfDigits_dec (n : Nat) : natOfDigits (dec n) = n := decLoop_foldl [] (lt_ten_pow_log2 n)

theorem dec_all_isDigit (n : Nat) : (dec n).all isDigit = true := decLoop_all_isDigit [] rfl

theorem dec_ne_nil (n : Nat) : dec n ≠ [] := by
  rw [dec, decLoop]
  split
  · exact List.cons_ne_nil _ _
  · exact List.ne_nil_of_length_pos (length_le_decLoop [digitChar (n % 10)])

theorem dec_length_le {n width : Nat} (hwidth : 0 < width) (h : n < 10 ^ width) : (dec n).length ≤ width :=
  decLoop_length_le [] hwidth h

/-! ## NAT (30_encoding.md R72) -/

theorem parseNat_of_digits {t : Text} (hne : t ≠ []) (hall : t.all isDigit = true) :
    parseNat t = some (natOfDigits t) := if_pos ⟨hne, hall⟩

theorem parseNat_dec (n : Nat) : parseNat (dec n) = some n := by
  rw [parseNat_of_digits (dec_ne_nil n) (dec_all_isDigit n), natOfDigits_dec]

theorem natOfDigits_padZeros (width : Nat) (t : Text) : natOfDigits (padZeros width t) = natOfDigits t := by
  rw [padZeros]
  generalize width - t.length = k
  induction k with
  | zero => rfl
  | succ k ih => rw [← ih]; rfl

/-- A padded numeral reads as the number: the zeros in front are digits and add nothing. -/
theorem parseNat_padZeros_dec (width n : Nat) : parseNat (padZeros width (dec n)) = some n := by
  have hne : padZeros width (dec n) ≠ [] := List.append_ne_nil_of_right_ne_nil _ (dec_ne_nil n)
  have hall : (padZeros width (dec n)).all isDigit = true := by
    rw [padZeros, List.all_append, dec_all_isDigit, Bool.and_true, List.all_replicate]
    split <;> rfl
  rw [parseNat_of_digits hne hall, natOfDigits_padZeros, natOfDigits_dec]

theorem padZeros_dec_length {width n : Nat} (hwidth : 0 < width) (h : n < 10 ^ width) :
    (padZeros width (dec n)).length = width := by
  have := dec_length_le hwidth h
  rw [padZeros, List.length_append, List.length_replicate]
  omega

/-- `D2` of a number below 100: two characters, which read as it (30_encoding.md R71). -/
theorem dec2_chars {n : Nat} (h : n < 100) : ∃ a b, dec2 n = [a, b] ∧ parseNat [a, b] = some n := by
  obtain ⟨a, b, hab⟩ := List.length_eq_two.mp (padZeros_dec_length two_pos h)
  exact ⟨a, b, hab, hab ▸ parseNat_padZeros_dec 2 n⟩

/-- `D4` of a number below 10000: four characters, which read as it (30_encoding.md R71). -/
theorem dec4_chars {n : Nat} (h : n < 10000) : ∃ a b c d, dec4 n = [a, b, c, d] ∧ parseNat [a, b, c, d] = some n := by
  obtain ⟨a, b, c, d, habcd⟩ := List.length_eq_four.mp (padZeros_dec_length four_pos h)
  exact ⟨a, b, c, d, habcd, habcd ▸ parseNat_padZeros_dec 4 n⟩

/-! ## DATETIME (30_encoding.md R72) -/

open Machine in
/-- The model's length of a month is the spec's. -/
theorem monthLength_eq {y m : Nat} (hlow : 1 ≤ m) (hhigh : m ≤ 12) :
    monthLength y m =
      if m ∈ [1, 3, 5, 7, 8, 10, 12] then 31
      else if m ∈ [4, 6, 9, 11] then 30
      else if (4 ∣ y ∧ ¬100 ∣ y) ∨ 400 ∣ y then 29 else 28 := by
  interval_cases m <;> simp [monthLength, isLeapYear, Nat.dvd_iff_mod_eq_zero]

open Machine in
/-- The executable check is the spec's definition of a valid date and time. -/
theorem DateTime.valid_iff (d : DateTime) : d.valid = true ↔ validDateTime d := by
  simp only [DateTime.valid, validDateTime, Bool.and_eq_true, decide_eq_true_eq, and_assoc]
  refine and_congr_right fun _ => and_congr_right fun _ => and_congr_right fun hlow => and_congr_right fun hhigh => ?_
  rw [monthLength_eq hlow hhigh]

/-- The longest day number of any month. -/
theorem monthLength_le (y m : Nat) : monthLength y m ≤ 31 := by
  unfold monthLength
  split <;> split <;> omega

theorem parseDateTime_dateTimeLine {d : DateTime} (h : d.valid = true) : parseDateTime (dateTimeLine d) = some d := by
  have hbounds := h
  simp only [DateTime.valid, Bool.and_eq_true, decide_eq_true_eq] at hbounds
  have hlongest := monthLength_le d.year d.month
  obtain ⟨_, _, _, _, hyear, hyear'⟩ := dec4_chars (n := d.year) (by omega)
  obtain ⟨_, _, hmonth, hmonth'⟩ := dec2_chars (n := d.month) (by omega)
  obtain ⟨_, _, hday, hday'⟩ := dec2_chars (n := d.day) (by omega)
  obtain ⟨_, _, hhour, hhour'⟩ := dec2_chars (n := d.hour) (by omega)
  obtain ⟨_, _, hminute, hminute'⟩ := dec2_chars (n := d.minute) (by omega)
  obtain ⟨_, _, hsecond, hsecond'⟩ := dec2_chars (n := d.second) (by omega)
  simp [dateTimeLine, hyear, hmonth, hday, hhour, hminute, hsecond, parseDateTime, slice, hyear', hmonth', hday', hhour',
    hminute', hsecond', h]

/-- Settles O34: a digit loop undone by the digit fold, and a date line cut where its fixed widths say. -/
theorem numeralsReadBack : Obligations.NumeralsReadBack :=
  ⟨parseNat_dec, fun d h => parseDateTime_dateTimeLine (d.valid_iff.mpr h)⟩

end Sys2Proof
end

section
/-! PROOFS. What each sequencer command can do (spec/44_framer.md R111 to R115), and the frame of the sequencer (10_state.md R33,
R34, R35). -/

namespace Sys2Proof.Machine

/-! ## What a command can do -/

/-- Everything a command can do: it answers a value or an error and nothing more, or it is one of the three sequencer commands
(00_scope.md R10). -/
theorem exec_cases {i : Instr} {s t : State} (h : exec i s = .next t) :
    s.cfg.legal = true ∧
      ((isPure i = true ∧ ∃ out, t = { s with out := out }) ∨
        (i = .start ∧ t = s.startNext) ∨
          (∃ ok, i = .sendack ok ∧ t = s.sendackNext ok) ∨
            (i = .cancel ∧ t = s.cancelNext)) := by
  by_cases hpure : isPure i = true
  · obtain ⟨answer, heq, -⟩ := exec_eq_datapath hpure
    rw [heq] at h
    obtain ⟨hlegal, rfl⟩ := datapath_next_iff.mp h
    exact ⟨hlegal, .inl ⟨hpure, _, s.finish_frame _⟩⟩
  · cases i with
    | start =>
      obtain ⟨hlegal, ht⟩ := guarded_next_iff.mp h
      exact ⟨hlegal, .inr (.inl ⟨rfl, ht⟩)⟩
    | sendack ok =>
      obtain ⟨hlegal, ht⟩ := guarded_next_iff.mp h
      exact ⟨hlegal, .inr (.inr (.inl ⟨ok, rfl, ht⟩))⟩
    | cancel =>
      obtain ⟨hlegal, ht⟩ := guarded_next_iff.mp h
      exact ⟨hlegal, .inr (.inr (.inr ⟨rfl, ht⟩))⟩
    | _ => exact absurd rfl hpure

/-- The registers SENDACK 1 renders the next fragment from (44_framer.md R113). -/
def State.advanced (s : State) : State :=
  { s.emit (.ack true) with cursor := s.cursor + s.count, index := s.index + 1, shift := 0 }

/-- The registers SENDACK 0 renders the same range from, at the next shift (44_framer.md R113). -/
def State.retried (s : State) : State :=
  { s.emit (.ack false) with shift := s.shift + 1 }

/-- Everything SENDACK 1 in SENDING can do (44_framer.md R113). -/
theorem accepted_cases (s : State) :
    (s.cursor + s.count = s.nsym ∧
      s.accepted =
        { s.emit (.ack true) with cursor := s.cursor + s.count, state := .done, result := .true, out := .ok .none }) ∨
      (s.cursor + s.count ≠ s.nsym ∧ s.accepted = s.advanced.render s) := by
  by_cases hend : s.cursor + s.count = s.nsym
  · exact .inl ⟨hend, if_pos hend⟩
  · exact .inr ⟨hend, if_neg hend⟩

/-- Everything SENDACK 0 in SENDING can do (44_framer.md R113). -/
theorem rejected_cases (s : State) :
    ((s.shift + 1).toNat = s.cfg.shiftLimit ∧
      s.rejected =
        { s.emit (.ack false) with
          shift := s.shift + 1, state := .exhausted, result := .false, err := .retryExhausted,
          out := .err (.retryExhausted s.index) }) ∨
      ((s.shift + 1).toNat ≠ s.cfg.shiftLimit ∧ s.rejected = s.retried.render s) := by
  by_cases hlast : (s.shift + 1).toNat = s.cfg.shiftLimit
  · exact .inl ⟨hlast, if_pos hlast⟩
  · exact .inr ⟨hlast, if_neg hlast⟩

/-- Everything CANCEL can do (44_framer.md R115). -/
theorem cancelNext_cases (s : State) :
    (s.state = .sending ∧
      s.cancelNext = { s with state := .cancelled, result := .false, err := .cancelled, out := .ok .none }) ∨
      (s.state ≠ .sending ∧ s.cancelNext = s.answer .none) := by
  by_cases hs : s.state = .sending
  · exact .inl ⟨hs, if_pos hs⟩
  · exact .inr ⟨hs, if_neg hs⟩

/-! ## The event history (10_state.md R35) -/

/-- A state whose history is `log`, or `log` and the Send of the text it now waits in SENDING with. -/
def State.SendsAtMostOnce (log : List Event) (t : State) : Prop :=
  t.txlog = log ∨ (t.txlog = log ++ [.send t.txbuf] ∧ t.state = .sending)

/-- Render adds at most a Send; where FRAG raises, the history is that before the command. -/
theorem render_sendsAtMostOnce (s before : State) :
    (s.render before).txlog = before.txlog ∨ (s.render before).SendsAtMostOnce s.txlog := by
  obtain ⟨e, -, ht⟩ | ⟨text, -, ht⟩ | ⟨text, n, -, ht⟩ := render_cases s before <;> rw [ht]
  · exact .inl rfl
  · exact .inr (.inl rfl)
  · exact .inr (.inr ⟨rfl, rfl⟩)

theorem State.SendsAtMostOnce.exists_sends {log : List Event} {t : State} (h : t.SendsAtMostOnce log) :
    ∃ sends, t.txlog = log ++ sends ∧
      (sends = [] ∨ ∃ text, sends = [.send text] ∧ t.txbuf = text ∧ t.state = .sending) := by
  obtain hlog | ⟨hlog, hsending⟩ := h
  · exact ⟨[], by simp [hlog], .inl rfl⟩
  · exact ⟨_, hlog, .inr ⟨_, rfl, rfl, hsending⟩⟩

/-- START adds at most a Send (44_framer.md R112). -/
theorem startNext_sendsAtMostOnce (s : State) : s.startNext.SendsAtMostOnce s.txlog := by
  obtain ⟨-, ht⟩ | ⟨-, e, -, ht⟩ | ⟨-, F, -, ht⟩ := startNext_cases s <;> rw [ht]
  · exact .inl rfl
  · exact .inl rfl
  · obtain ⟨reason, -, ht⟩ | ⟨e, -, -, ht⟩ | ⟨S, -, -, ht⟩ := begin_cases s F <;> rw [ht]
    · exact .inl rfl
    · exact .inl rfl
    · exact (render_sendsAtMostOnce _ s).elim .inl id

/-- SENDACK adds nothing, or in SENDING its Ack and then at most a Send (44_framer.md R113). -/
theorem sendackNext_log (s : State) (ok : Bool) :
    (s.sendackNext ok).txlog = s.txlog ∨
      (s.state = .sending ∧ (s.sendackNext ok).SendsAtMostOnce (s.txlog ++ [.ack ok])) := by
  obtain ⟨-, ht⟩ | ⟨hs, rfl, ht⟩ | ⟨hs, rfl, ht⟩ := sendackNext_cases s ok <;> rw [ht]
  · exact .inl rfl
  · obtain ⟨-, ht⟩ | ⟨-, ht⟩ := accepted_cases s <;> rw [ht]
    · exact .inr ⟨hs, .inl rfl⟩
    · exact (render_sendsAtMostOnce _ s).imp_right (⟨hs, ·⟩)
  · obtain ⟨-, ht⟩ | ⟨-, ht⟩ := rejected_cases s <;> rw [ht]
    · exact .inr ⟨hs, .inl rfl⟩
    · exact (render_sendsAtMostOnce _ s).imp_right (⟨hs, ·⟩)

/-- CANCEL writes no register but STATE, RESULT and ERR (44_framer.md R115). -/
theorem cancelNext_frame (s : State) :
    ∃ state result err out, s.cancelNext = { s with state := state, result := result, err := err, out := out } := by
  obtain ⟨-, ht⟩ | ⟨-, ht⟩ := cancelNext_cases s <;> exact ⟨_, _, _, _, ht⟩

/-! ## The message under way (10_state.md R33, R34) -/

/-- `t` holds the message of `s`: SYMS with NSYM, META and the two warning flags. -/
structure State.SameMessage (s t : State) : Prop where
  nsym : t.nsym = s.nsym
  syms : t.syms = s.syms
  header : t.header = s.header
  warnLat : t.warnLat = s.warnLat
  warnLon : t.warnLon = s.warnLon

theorem State.SameMessage.render {s before : State} (h : before.SameMessage s) :
    before.SameMessage (s.render before) := by
  obtain ⟨hnsym, hsyms, hheader, hlat, hlon⟩ := h
  obtain ⟨e, -, ht⟩ | ⟨text, -, ht⟩ | ⟨text, n, -, ht⟩ := render_cases s before <;> rw [ht]
  · exact ⟨rfl, rfl, rfl, rfl, rfl⟩
  · exact ⟨hnsym, hsyms, hheader, hlat, hlon⟩
  · exact ⟨hnsym, hsyms, hheader, hlat, hlon⟩

theorem sendackNext_sameMessage (s : State) (ok : Bool) : s.SameMessage (s.sendackNext ok) := by
  obtain ⟨-, ht⟩ | ⟨-, -, ht⟩ | ⟨-, -, ht⟩ := sendackNext_cases s ok <;> rw [ht]
  · exact ⟨rfl, rfl, rfl, rfl, rfl⟩
  · obtain ⟨-, ht⟩ | ⟨-, ht⟩ := accepted_cases s <;> rw [ht]
    · exact ⟨rfl, rfl, rfl, rfl, rfl⟩
    · exact State.SameMessage.render ⟨rfl, rfl, rfl, rfl, rfl⟩
  · obtain ⟨-, ht⟩ | ⟨-, ht⟩ := rejected_cases s <;> rw [ht]
    · exact ⟨rfl, rfl, rfl, rfl, rfl⟩
    · exact State.SameMessage.render ⟨rfl, rfl, rfl, rfl, rfl⟩

/-! ## The frame of every command -/

/-- The history after a command: it grows by the Ack of a SENDACK in SENDING, if any, and then by the Send of a START or a SENDACK,
if any (10_state.md R35). -/
theorem exec_log {i : Instr} {s t : State} (h : exec i s = .next t) :
    ∃ acks sends : List Event, t.txlog = s.txlog ++ acks ++ sends ∧
      (acks = [] ∨ ∃ ok, i = .sendack ok ∧ s.state = .sending ∧ acks = [.ack ok]) ∧
      (sends = [] ∨ (∃ text, sends = [.send text] ∧ t.txbuf = text ∧ t.state = .sending) ∧
        (i = .start ∨ ∃ ok, i = .sendack ok)) := by
  obtain ⟨-, ⟨-, out, rfl⟩ | ⟨rfl, rfl⟩ | ⟨ok, rfl, rfl⟩ | ⟨rfl, rfl⟩⟩ := exec_cases h
  · exact ⟨[], [], by simp, .inl rfl, .inl rfl⟩
  · obtain ⟨sends, hlog, hsends⟩ := (startNext_sendsAtMostOnce s).exists_sends
    exact ⟨[], sends, by simpa using hlog, .inl rfl, hsends.imp_right (⟨·, .inl rfl⟩)⟩
  · obtain hlog | ⟨hsending, hlog⟩ := sendackNext_log s ok
    · exact ⟨[], [], by simpa using hlog, .inl rfl, .inl rfl⟩
    · obtain ⟨sends, hlog, hsends⟩ := hlog.exists_sends
      exact ⟨[.ack ok], sends, hlog, .inr ⟨ok, rfl, hsending, rfl⟩, hsends.imp_right (⟨·, .inr ⟨ok, rfl⟩⟩)⟩
  · obtain ⟨_, _, _, _, ht⟩ := cancelNext_frame s
    exact ⟨[], [], by simp [ht], .inl rfl, .inl rfl⟩

/-- Every command but START keeps the message (10_state.md R33, R34). -/
theorem exec_sameMessage {i : Instr} {s t : State} (hstart : i ≠ .start) (h : exec i s = .next t) : s.SameMessage t := by
  obtain ⟨-, ⟨-, out, rfl⟩ | ⟨rfl, -⟩ | ⟨ok, -, rfl⟩ | ⟨-, rfl⟩⟩ := exec_cases h
  · exact ⟨rfl, rfl, rfl, rfl, rfl⟩
  · exact absurd rfl hstart
  · exact sendackNext_sameMessage s ok
  · obtain ⟨_, _, _, _, ht⟩ := cancelNext_frame s
    rw [ht]
    exact ⟨rfl, rfl, rfl, rfl, rfl⟩

theorem exec_cancel_frame {s t : State} (h : exec .cancel s = .next t) :
    t = { s with state := t.state, result := t.result, err := t.err, out := t.out } := by
  obtain ⟨-, rfl⟩ := guarded_next_iff.mp h
  obtain ⟨_, _, _, _, ht⟩ := cancelNext_frame s
  rw [ht]

/-- Settles O10: the history, the message and CANCEL's frame, each from the cases of the three sequencer commands. -/
theorem sequencerFrame : Obligations.SequencerFrame := by
  intro i s t hexec
  refine ⟨exec_log hexec, fun hstart => ?_, ?_⟩
  · obtain ⟨hnsym, hsyms, hheader, hlat, hlon⟩ := exec_sameMessage hstart hexec
    exact ⟨hnsym, hsyms, hheader, hlat, hlon⟩
  · rintro rfl
    exact exec_cancel_frame hexec

end Sys2Proof.Machine
end

section
/-! PROOFS. The invariant of the sequencer (spec/10_state.md R27, R28, R31; 44_framer.md R111 to R115) and what follows of SHIFT. -/

namespace Sys2Proof.Machine

/-! ## Reset (10_state.md R38) -/

/-- A block that was built with a legal configuration meets the invariant. -/
theorem builtWith_inv (s : State) {cfg : Cfg} (h : cfg.legal = true) : (s.builtWith cfg).Inv where
  legal := h
  nsymIsLength := rfl
  cursorInRange := Nat.le_refl _
  countInRange := Nat.zero_le _
  shiftInRange := Nat.zero_le _
  shiftTen := by simp
  outcome := ⟨rfl, rfl⟩
  waiting := nofun

/-- A reset is a build with the configuration the block has (70_reset_and_hazards.md R152, R153). -/
theorem afterReset_eq_builtWith (s : State) : s.afterReset = s.builtWith s.cfg := rfl

/-- Settles O43: State.reset is a block built with `builtCfg`. -/
theorem invariantAtReset : Obligations.InvariantAtReset := builtWith_inv State.reset builtCfg_legal

theorem step_reset {s : State} {rest : List HostAct} (h : s.cfg.legal = true) (hpending : s.pending = .reset :: rest) :
    step s = .next (s.afterAct rest).afterReset := by
  simp only [step, hpending]
  exact guarded_eq_next h

/-- Settles O6: the registers of a state after a reset act and of State.reset, read off. -/
theorem resetRegisters : Obligations.ResetRegisters := by
  refine ⟨fun s rest hlegal hpending => ⟨_, step_reset hlegal hpending, ?_⟩, ?_⟩
  · simp
  · simp [State.reset]

/-! ## The ports are no part of the invariant -/

theorem State.Inv.withPorts {s : State} (h : s.Inv) (port : Port) (out : Output) (pending : List HostAct) :
    State.Inv { s with port := port, out := out, pending := pending } :=
  ⟨h.legal, h.nsymIsLength, h.cursorInRange, h.countInRange, h.shiftInRange, h.shiftTen, h.outcome, h.waiting⟩

theorem State.Inv.raise {s : State} (h : s.Inv) (e : Err) : (s.raise e).Inv := h.withPorts s.port (.err e) s.pending

theorem State.Inv.answer {s : State} (h : s.Inv) (v : Value) : (s.answer v).Inv := h.withPorts s.port (.ok v) s.pending

theorem State.Inv.withOperands {s : State} (h : s.Inv) (port : Port) (rest : List HostAct) :
    (s.withOperands port rest).Inv := h.withPorts port s.out rest

theorem shiftTen_of_le_nine {shift : BitVec 4} {state : SeqState} (h : shift.toNat ≤ 9) (hstate : state ≠ .exhausted) :
    shift.toNat = 10 ↔ state = .exhausted :=
  iff_of_false (by omega) hstate

/-! ## Render (44_framer.md R111) -/

/-- What START and SENDACK have made true of the registers when they call Render or Fault; STATE and TXBUF may be anything. -/
structure State.Prepared (s : State) : Prop where
  legal : s.cfg.legal = true
  nsymIsLength : s.nsym = s.syms.length
  cursorInRange : s.cursor ≤ s.nsym
  countInRange : s.count ≤ 120
  shiftBelowTen : s.shift.toNat ≤ 9
  noResult : s.result = .none
  noErr : s.err = .none

/-- The errors that end an encode in FAULTED (60_exceptions.md R137). -/
def Err.endsInFaulted (e : Err) : Prop :=
  e.code = .invalidField ∨ e.code = .invalidSample ∨ e.code = .frameOverflow

theorem State.Prepared.fault_inv {s : State} (h : s.Prepared) {e : Err} (he : e.endsInFaulted) : (s.fault e).Inv where
  legal := h.legal
  nsymIsLength := h.nsymIsLength
  cursorInRange := h.cursorInRange
  countInRange := h.countInRange
  shiftInRange := h.shiftBelowTen.trans (by decide)
  shiftTen := shiftTen_of_le_nine h.shiftBelowTen nofun
  outcome := ⟨rfl, he⟩
  waiting := nofun

/-- A fragment takes at most 120 symbols, and none past the last. -/
theorem buildFragment_bounds {cfg : Cfg} (h : cfg.legal = true) {index k cur n : Nat} {ss : List Sym} {m : HeaderMeta}
    {text : Text} (hbuild : buildFragment cfg index k ss cur (.ok m) = .ok (text, n)) :
    n ≤ 120 ∧ cur + n ≤ ss.length := by
  have hbounds : ∀ lines, cur ≤ ss.length → fragmentText cfg k lines ss cur = (text, n) → n ≤ 120 ∧ cur + n ≤ ss.length := by
    intro lines hcur hfragment
    have hcount := fragmentText_count_le h k lines ss cur
    have hrange := fragmentText_range cfg k lines hcur
    rw [hfragment] at hcount hrange
    exact ⟨hcount, hrange⟩
  obtain ⟨-, herr⟩ | ⟨-, -, -, herr⟩ | ⟨hcur, -, -, hok⟩ | ⟨hcur, -, hok⟩ := buildFragment_cases cfg index k ss cur m
  · exact absurd (herr.symm.trans hbuild) nofun
  · exact absurd (herr.symm.trans hbuild) nofun
  · exact hbounds _ hcur (Except.ok.inj (hok.symm.trans hbuild))
  · exact hbounds _ hcur (Except.ok.inj (hok.symm.trans hbuild))

theorem renderRequest_eq {s : State} (h : s.cfg.legal = true) (hshift : s.shift.toNat ≤ 9) :
    renderRequest s = buildFragment s.cfg s.index s.shift.toNat s.syms s.cursor (.ok s.header) := by
  rw [renderRequest, shiftOf_ok h hshift]
  rfl

/-- Render of prepared registers meets the invariant: where FRAG raises, it is the state before the command, where no symbol fits,
the encode is over, and else the block waits with the fragment in TXBUF. -/
theorem State.Prepared.render_inv {s before : State} (h : s.Prepared) (hbefore : before.Inv) : (s.render before).Inv := by
  obtain ⟨e, -, ht⟩ | ⟨text, -, ht⟩ | ⟨text, n, hrequest, ht⟩ := render_cases s before <;> rw [ht]
  · exact hbefore.raise e
  · exact h.fault_inv (.inr (.inr rfl))
  · have hbuild := (renderRequest_eq h.legal h.shiftBelowTen).symm.trans hrequest
    obtain ⟨hcount, hrange⟩ := buildFragment_bounds h.legal hbuild
    have hshift := h.shiftBelowTen
    exact {
      legal := h.legal
      nsymIsLength := h.nsymIsLength
      cursorInRange := h.cursorInRange
      countInRange := hcount
      shiftInRange := hshift.trans (by decide)
      shiftTen := shiftTen_of_le_nine hshift nofun
      outcome := ⟨h.noResult, h.noErr⟩
      waiting := fun _ => ⟨Nat.succ_pos n, h.nsymIsLength ▸ hrange, hshift, hbuild, List.getLast?_concat⟩ }

/-! ## START (44_framer.md R112) -/

theorem cleared_prepared {s : State} (h : s.cfg.legal = true) : s.cleared.Prepared :=
  ⟨h, rfl, Nat.le_refl _, Nat.zero_le _, Nat.zero_le _, rfl, rfl⟩

theorem State.Prepared.withField {s : State} (h : s.Prepared) (F : WindField) : (s.withField F).Prepared :=
  ⟨h.legal, h.nsymIsLength, h.cursorInRange, h.countInRange, h.shiftBelowTen, h.noResult, h.noErr⟩

/-- SYMS may be loaded while CURSOR is 0. -/
theorem State.Prepared.withSamples {s : State} (h : s.Prepared) (hcursor : s.cursor = 0) (S : List Sample) :
    (s.withSamples S).Prepared :=
  ⟨h.legal, rfl, by simp [hcursor], h.countInRange, h.shiftBelowTen, h.noResult, h.noErr⟩

theorem quantizeCells_error {cfg : Cfg} {c : Nat} {cells : List (F64 × F64)} {e : Err}
    (h : quantizeCells cfg c cells = .error e) : e.code = .invalidSample := by
  induction cells generalizing c with
  | nil => cases h
  | cons cell cells ih =>
    rw [quantizeCells] at h
    split at h
    · cases h
      rfl
    · split at h
      · cases h
      · next hrest =>
        cases h
        exact ih hrest

theorem quantizeField_error {cfg : Cfg} {F : WindField} {e : Err} (h : quantizeField cfg F = .error e) :
    e.endsInFaulted := by
  unfold quantizeField at h
  split at h
  · exact .inr (.inl (quantizeCells_error h))
  · cases h
    exact .inl rfl

theorem startNext_inv {s : State} (h : s.Inv) : s.startNext.Inv := by
  have hcleared : s.cleared.Prepared := cleared_prepared h.legal
  obtain ⟨-, ht⟩ | ⟨-, e, -, ht⟩ | ⟨-, F, -, ht⟩ := startNext_cases s <;> rw [ht]
  · exact h.raise _
  · exact h.raise e
  · obtain ⟨reason, -, ht⟩ | ⟨e, -, hquantize, ht⟩ | ⟨S, -, -, ht⟩ := begin_cases s F <;> rw [ht]
    · exact hcleared.fault_inv (.inl rfl)
    · exact (hcleared.withField F).fault_inv (quantizeField_error hquantize)
    · exact ((hcleared.withField F).withSamples rfl S).render_inv h

/-! ## SENDACK and CANCEL (44_framer.md R113, R115) -/

/-- What the invariant says of a block in SENDING. -/
theorem State.Inv.of_sending {s : State} (h : s.Inv) (hs : s.state = .sending) :
    s.awaitsAnswer ∧ s.result = .none ∧ s.err = .none :=
  ⟨h.waiting hs, by simpa [State.outcomeAgrees, hs] using h.outcome⟩

theorem accepted_inv {s : State} (h : s.Inv) (hs : s.state = .sending) : s.accepted.Inv := by
  obtain ⟨⟨-, hrange, hshift, -, -⟩, hresult, herr⟩ := h.of_sending hs
  obtain ⟨hend, ht⟩ | ⟨-, ht⟩ := accepted_cases s <;> rw [ht]
  · exact {
      legal := h.legal
      nsymIsLength := h.nsymIsLength
      cursorInRange := hrange
      countInRange := h.countInRange
      shiftInRange := h.shiftInRange
      shiftTen := shiftTen_of_le_nine hshift nofun
      outcome := ⟨rfl, herr, hend⟩
      waiting := nofun }
  · have hprepared : s.advanced.Prepared :=
      ⟨h.legal, h.nsymIsLength, hrange, h.countInRange, Nat.zero_le _, hresult, herr⟩
    exact hprepared.render_inv h

theorem rejected_inv {s : State} (h : s.Inv) (hs : s.state = .sending) : s.rejected.Inv := by
  obtain ⟨⟨-, -, hshift, -, -⟩, hresult, herr⟩ := h.of_sending hs
  have hsucc : (s.shift + 1).toNat = s.shift.toNat + 1 := by bv_omega
  have hlimit := Cfg.legal_shiftLimit h.legal
  obtain ⟨hlast, ht⟩ | ⟨hlast, ht⟩ := rejected_cases s <;> rw [ht]
  · have hten : (s.shift + 1).toNat = 10 := hlast.trans hlimit
    exact {
      legal := h.legal
      nsymIsLength := h.nsymIsLength
      cursorInRange := h.cursorInRange
      countInRange := h.countInRange
      shiftInRange := hten.le
      shiftTen := iff_of_true hten rfl
      outcome := ⟨rfl, rfl⟩
      waiting := nofun }
  · have hnext : (s.shift + 1).toNat ≤ 9 := by omega
    have hprepared : s.retried.Prepared :=
      ⟨h.legal, h.nsymIsLength, h.cursorInRange, h.countInRange, hnext, hresult, herr⟩
    exact hprepared.render_inv h

theorem sendackNext_inv {s : State} (h : s.Inv) (ok : Bool) : (s.sendackNext ok).Inv := by
  obtain ⟨-, ht⟩ | ⟨hs, -, ht⟩ | ⟨hs, -, ht⟩ := sendackNext_cases s ok <;> rw [ht]
  · exact h.raise _
  · exact accepted_inv h hs
  · exact rejected_inv h hs

theorem cancelNext_inv {s : State} (h : s.Inv) : s.cancelNext.Inv := by
  obtain ⟨hs, ht⟩ | ⟨-, ht⟩ := cancelNext_cases s <;> rw [ht]
  · obtain ⟨⟨-, -, hshift, -, -⟩, -, -⟩ := h.of_sending hs
    exact {
      legal := h.legal
      nsymIsLength := h.nsymIsLength
      cursorInRange := h.cursorInRange
      countInRange := h.countInRange
      shiftInRange := h.shiftInRange
      shiftTen := shiftTen_of_le_nine hshift nofun
      outcome := ⟨rfl, rfl⟩
      waiting := nofun }
  · exact h.answer _

/-! ## Every command and every step -/

theorem exec_inv {i : Instr} {s t : State} (h : s.Inv) (hexec : exec i s = .next t) : t.Inv := by
  obtain ⟨-, ⟨-, out, rfl⟩ | ⟨-, rfl⟩ | ⟨ok, -, rfl⟩ | ⟨-, rfl⟩⟩ := exec_cases hexec
  · exact h.withPorts s.port out s.pending
  · exact startNext_inv h
  · exact sendackNext_inv h ok
  · exact cancelNext_inv h

/-- Settles O44: a step holds, runs a command, refuses a word, resets or builds, and each keeps the invariant. -/
theorem invariantKept : Obligations.InvariantKept := by
  intro s t h hstep
  obtain ⟨-, rfl⟩ | ⟨w, p, rest, i, -, -, hexec⟩ | ⟨w, p, rest, e, -, -, -, rfl⟩ | ⟨rest, -, hlegal, rfl⟩ |
    ⟨cfg, rest, -, hlegal, rfl⟩ := step_cases hstep
  · exact h
  · exact exec_inv (h.withOperands p rest) hexec
  · exact (h.withOperands p rest).raise _
  · exact builtWith_inv (s.afterAct rest) hlegal
  · exact builtWith_inv (s.afterAct rest) hlegal

/-! ## SHIFT (10_state.md R31) -/

theorem render_shift (s before : State) :
    (s.render before).shift = s.shift ∨ (s.render before).shift = before.shift := by
  obtain ⟨e, -, ht⟩ | ⟨text, -, ht⟩ | ⟨text, n, -, ht⟩ := render_cases s before <;> simp [ht]

theorem startNext_shift (s : State) : s.startNext.shift = 0 ∨ s.startNext.shift = s.shift := by
  obtain ⟨-, ht⟩ | ⟨-, e, -, ht⟩ | ⟨-, F, -, ht⟩ := startNext_cases s <;> rw [ht]
  · exact .inr rfl
  · exact .inr rfl
  · obtain ⟨reason, -, ht⟩ | ⟨e, -, -, ht⟩ | ⟨S, -, -, ht⟩ := begin_cases s F <;> rw [ht]
    · exact .inl rfl
    · exact .inl rfl
    · exact render_shift _ s

/-- Outside SENDING, a command that changes SHIFT is a START and clears it. -/
theorem exec_shift_of_not_sending {i : Instr} {s t : State} (hs : s.state ≠ .sending) (h : exec i s = .next t) :
    t.shift = s.shift ∨ (i = .start ∧ t.shift = 0) := by
  obtain ⟨-, ⟨-, out, rfl⟩ | ⟨rfl, rfl⟩ | ⟨ok, -, rfl⟩ | ⟨-, rfl⟩⟩ := exec_cases h
  · exact .inl rfl
  · exact (startNext_shift s).symm.imp_right (⟨rfl, ·⟩)
  · obtain ⟨-, ht⟩ | ⟨hsending, -, -⟩ | ⟨hsending, -, -⟩ := sendackNext_cases s ok
    · exact .inl (by rw [ht]; rfl)
    · exact absurd hsending hs
    · exact absurd hsending hs
  · obtain ⟨_, _, _, _, ht⟩ := cancelNext_frame s
    exact .inl (by rw [ht])

/-- Outside SENDING, a step that changes SHIFT takes a START, a reset or a build and clears it. -/
theorem step_shift_of_not_sending {s t : State} (hs : s.state ≠ .sending) (h : step s = .next t) :
    t.shift = s.shift ∨ (nextActRestarts s ∧ t.shift = 0) := by
  obtain ⟨-, rfl⟩ | ⟨w, p, rest, i, hp, hdecode, hexec⟩ | ⟨w, p, rest, e, -, -, -, rfl⟩ | ⟨rest, hp, -, rfl⟩ |
    ⟨cfg, rest, hp, -, rfl⟩ := step_cases h
  · exact .inl rfl
  · refine (exec_shift_of_not_sending (s := s.withOperands p rest) hs hexec).imp_right fun ⟨hstart, hzero⟩ => ⟨?_, hzero⟩
    simpa [nextActRestarts, hp, hstart] using hdecode
  · exact .inl rfl
  · exact .inr ⟨by simp [nextActRestarts, hp], rfl⟩
  · exact .inr ⟨by simp [nextActRestarts, hp], rfl⟩

/-- Settles O45: the invariant ties a SHIFT of 10 to EXHAUSTED, and outside SENDING a step can only keep SHIFT or clear it. -/
theorem shiftBounds : Obligations.ShiftBounds := by
  intro s t h hstep
  have ht : t.Inv := invariantKept s t h hstep
  refine ⟨fun hsending => ?_, fun hnot hten => ⟨?_, ht.shiftTen.mp hten⟩, fun hten => ?_⟩
  · obtain ⟨⟨-, -, hshift, -, -⟩, -, -⟩ := ht.of_sending hsending
    exact hshift
  · by_contra hs
    obtain hkept | ⟨-, hzero⟩ := step_shift_of_not_sending hs hstep
    · exact hnot (hkept ▸ hten)
    · simp [hzero] at hten
  · have hs : s.state ≠ .sending := by simp [h.shiftTen.mp hten]
    obtain hkept | ⟨hrestarts, -⟩ := step_shift_of_not_sending hs hstep
    · exact .inr (hkept ▸ hten)
    · exact .inl hrestarts

end Sys2Proof.Machine
end

section
/-! PROOFS. RDSTAT and RDIDX (spec/10_state.md R27, R32; 44_framer.md R116, R117). -/

namespace Sys2Proof.Machine

/-- A bit of a field that stands in a word from place `k` on. -/
theorem getLsbD_placed {v w : Nat} (x : BitVec v) (k i : Nat) (hi : i < w) :
    (x.setWidth w <<< k).getLsbD i = (decide (k ≤ i) && x.getLsbD (i - k)) := by
  by_cases hk : i < k
  · simp [hk, show ¬k ≤ i by omega]
  · simp [hi, hk, show k ≤ i by omega]

/-- A bit of STATUS, by the places of the six fields (10_state.md R32). -/
theorem statusWord_getLsbD (s : State) {i : Nat} (hi : i < 32) :
    s.statusWord.getLsbD i =
      (s.state.bits.getLsbD i || (decide (4 ≤ i) && s.result.bits.getLsbD (i - 4)) ||
        (decide (6 ≤ i) && (BitVec.ofBool s.warnLat).getLsbD (i - 6)) ||
        (decide (7 ≤ i) && (BitVec.ofBool s.warnLon).getLsbD (i - 7)) ||
        (decide (8 ≤ i) && s.shift.getLsbD (i - 8)) || (decide (12 ≤ i) && s.err.bits.getLsbD (i - 12))) := by
  simp only [State.statusWord, BitVec.getLsbD_or, getLsbD_placed _ _ _ hi, BitVec.getLsbD_setWidth, hi, decide_true,
    Bool.true_and]

/-- A field of a word is the vector whose bits stand there. -/
theorem extractLsb'_eq_of_getLsbD {w v start : Nat} {word : BitVec w} {x : BitVec v}
    (h : ∀ i < v, word.getLsbD (start + i) = x.getLsbD i) : word.extractLsb' start v = x := by
  apply BitVec.eq_of_getLsbD_eq
  intro i hi
  rw [BitVec.getLsbD_extractLsb', h i hi]
  simp [hi]

/-- STATUS with every field in its place and 0 elsewhere (10_state.md R32). -/
theorem statusWord_fields (s : State) :
    s.statusWord.extractLsb' 0 3 = s.state.bits ∧ s.statusWord.getLsbD 3 = false ∧
      s.statusWord.extractLsb' 4 2 = s.result.bits ∧ s.statusWord.getLsbD 6 = s.warnLat ∧
      s.statusWord.getLsbD 7 = s.warnLon ∧ s.statusWord.extractLsb' 8 4 = s.shift ∧
      s.statusWord.extractLsb' 12 4 = s.err.bits ∧ s.statusWord.extractLsb' 16 16 = 0 := by
  refine ⟨extractLsb'_eq_of_getLsbD fun i hi => ?_, ?_, extractLsb'_eq_of_getLsbD fun i hi => ?_, ?_, ?_,
    extractLsb'_eq_of_getLsbD fun i hi => ?_, extractLsb'_eq_of_getLsbD fun i hi => ?_,
    extractLsb'_eq_of_getLsbD fun i hi => ?_⟩
  all_goals rw [statusWord_getLsbD s (by omega)]
  · interval_cases i <;> simp
  · simp
  · interval_cases i <;> simp
  · simp
  · simp
  · interval_cases i <;> simp
  · interval_cases i <;> simp
  · interval_cases i <;> simp

/-- Settles O11: STATUS field by field, and the codes by evaluation. -/
theorem readersAnswer : Obligations.ReadersAnswer :=
  ⟨fun s hlegal => ⟨s.statusWord, datapath_ok hlegal _, statusWord_fields s⟩, fun _ hlegal => datapath_ok hlegal _,
    by decide, by decide, by decide⟩

end Sys2Proof.Machine
end

section
/-! PROOFS. What no command writes (spec/20_memory.md R44; 10_state.md R23) and which act a step takes (20_memory.md R50). -/

namespace Sys2Proof.Machine

/-! ## What stands on the input side of the block -/

/-- `t` holds the inputs of `s`: the operand port, CFG and the host's acts. -/
structure State.SameInputs (s t : State) : Prop where
  port : t.port = s.port
  cfg : t.cfg = s.cfg
  pending : t.pending = s.pending

theorem State.SameInputs.render {s before : State} (h : before.SameInputs s) : before.SameInputs (s.render before) := by
  obtain ⟨hport, hcfg, hpending⟩ := h
  obtain ⟨e, -, ht⟩ | ⟨text, -, ht⟩ | ⟨text, n, -, ht⟩ := render_cases s before <;> rw [ht]
  · exact ⟨rfl, rfl, rfl⟩
  · exact ⟨hport, hcfg, hpending⟩
  · exact ⟨hport, hcfg, hpending⟩

theorem begin_sameInputs (s : State) (F : WindField) : s.SameInputs (s.begin F) := by
  obtain ⟨reason, -, ht⟩ | ⟨e, -, -, ht⟩ | ⟨S, -, -, ht⟩ := begin_cases s F <;> rw [ht]
  · exact ⟨rfl, rfl, rfl⟩
  · exact ⟨rfl, rfl, rfl⟩
  · exact State.SameInputs.render ⟨rfl, rfl, rfl⟩

theorem startNext_sameInputs (s : State) : s.SameInputs s.startNext := by
  obtain ⟨-, ht⟩ | ⟨-, e, -, ht⟩ | ⟨-, F, -, ht⟩ := startNext_cases s <;> rw [ht]
  · exact ⟨rfl, rfl, rfl⟩
  · exact ⟨rfl, rfl, rfl⟩
  · exact begin_sameInputs s F

theorem sendackNext_sameInputs (s : State) (ok : Bool) : s.SameInputs (s.sendackNext ok) := by
  obtain ⟨-, ht⟩ | ⟨-, -, ht⟩ | ⟨-, -, ht⟩ := sendackNext_cases s ok <;> rw [ht]
  · exact ⟨rfl, rfl, rfl⟩
  · obtain ⟨-, ht⟩ | ⟨-, ht⟩ := accepted_cases s <;> rw [ht]
    · exact ⟨rfl, rfl, rfl⟩
    · exact State.SameInputs.render ⟨rfl, rfl, rfl⟩
  · obtain ⟨-, ht⟩ | ⟨-, ht⟩ := rejected_cases s <;> rw [ht]
    · exact ⟨rfl, rfl, rfl⟩
    · exact State.SameInputs.render ⟨rfl, rfl, rfl⟩

theorem cancelNext_sameInputs (s : State) : s.SameInputs s.cancelNext := by
  obtain ⟨_, _, _, _, ht⟩ := cancelNext_frame s
  rw [ht]
  exact ⟨rfl, rfl, rfl⟩

theorem exec_sameInputs {i : Instr} {s t : State} (h : exec i s = .next t) : s.SameInputs t := by
  obtain ⟨-, ⟨-, out, rfl⟩ | ⟨-, rfl⟩ | ⟨ok, -, rfl⟩ | ⟨-, rfl⟩⟩ := exec_cases h
  · exact ⟨rfl, rfl, rfl⟩
  · exact startNext_sameInputs s
  · exact sendackNext_sameInputs s ok
  · exact cancelNext_sameInputs s

/-- Settles O8: a pure command writes the result port alone, and Render, through which START and SENDACK write the most, no input. -/
theorem operandsUntouched : Obligations.OperandsUntouched := by
  intro i s t hexec
  obtain ⟨hport, hcfg, hpending⟩ := exec_sameInputs hexec
  exact ⟨hport, hcfg, hpending⟩

/-! ## The configuration check of every command -/

theorem guarded_eq_refused {s : State} (h : s.cfg.legal = false) (t : State) :
    guarded s t = .refused .illegalConfiguration := by
  simp [guarded, h]

/-- Every command stands behind the check of the configuration (93_implementation_defined.md I7). -/
theorem exec_eq_guarded (i : Instr) (s : State) : ∃ t, exec i s = guarded s t := by
  by_cases hpure : isPure i = true
  · obtain ⟨answer, heq, -⟩ := exec_eq_datapath hpure
    exact ⟨s.finish (answer s), heq s⟩
  · cases i with
    | start => exact ⟨s.startNext, rfl⟩
    | sendack ok => exact ⟨s.sendackNext ok, rfl⟩
    | cancel => exact ⟨s.cancelNext, rfl⟩
    | _ => exact absurd rfl hpure

theorem exec_refused (i : Instr) {s : State} (h : s.cfg.legal = false) : exec i s = .refused .illegalConfiguration := by
  obtain ⟨t, heq⟩ := exec_eq_guarded i s
  rw [heq, guarded_eq_refused h]

/-! ## The step, by the first of the host's acts (20_memory.md R50) -/

theorem step_of_no_act {s : State} (h : s.pending = []) : step s = .next s := by
  simp only [step, h]

theorem step_command {s : State} {w : Word} {operands : Port} {rest : List HostAct} {i : Instr}
    (hpending : s.pending = .command w operands :: rest) (hdecode : decode w = .ok i) :
    step s = exec i (s.withOperands operands rest) := by
  simp only [step, hpending, hdecode]

theorem step_build {s : State} {cfg : Cfg} {rest : List HostAct} (h : s.pending = .build cfg :: rest) :
    step s = guarded (s.builtWith cfg) ((s.afterAct rest).builtWith cfg) := by
  simp only [step, h]

/-- The table's reading of a word is the decoder's reading of the command word that `withFetchWord` presents. -/
theorem decodeTableWord_eq_some {nbits w : Nat} {i : Instr} (h : decodeTableWord nbits w = some i) :
    decode (tableWord nbits w) = .ok i := by
  rw [decodeTableWord, ← tableWord] at h
  cases hdecode : decode (tableWord nbits w) with
  | ok j => simpa [hdecode] using h
  | error e => simp [hdecode] at h

/-- Taking the act that presents a word on the operands of the port gives back the state it was presented in. -/
theorem present_withOperands (s : State) (w : Word) : (s.present w).withOperands s.port s.pending = s := rfl

theorem step_withFetchWord (s : State) {nbits w : Nat} {i : Instr} (h : decodeTableWord nbits w = some i) :
    step (s.withFetchWord nbits w) = exec i s := by
  have hpending : (s.withFetchWord nbits w).pending = .command (tableWord nbits w) s.port :: s.pending := rfl
  rw [step_command hpending (decodeTableWord_eq_some h), State.withFetchWord, present_withOperands]

/-- Settles O5: the equation of the step for each act, and the check every command stands behind. -/
theorem stepTakesNextAct : Obligations.StepTakesNextAct :=
  ⟨fun _ _ _ _ _ hpending hdecode => step_command hpending hdecode, fun s _ _ _ hword => step_withFetchWord s hword,
    fun _ => step_of_no_act, fun _ _ _ => step_build, fun _ i hlegal => exec_refused i hlegal⟩

end Sys2Proof.Machine
end

section
/-! PROOFS. The command word: the decoder undoes the encoder, a legal word is the word of its command, and the decoder follows the
opcode table (spec/30_encoding.md R55 to R61, R73). -/

namespace Sys2Proof

/-! ## The four fields of a word (30_encoding.md R55) -/

section
variable (op a b : BitVec 8)

@[simp] theorem opField_wordOf : opField (wordOf op a b) = op := BitVec.extractLsb'_append_eq_right

@[simp] theorem aField_wordOf : aField (wordOf op a b) = a := by
  rw [aField, wordOf, BitVec.extractLsb'_append_eq_of_le (by decide)]
  exact BitVec.extractLsb'_append_eq_right

@[simp] theorem bField_wordOf : bField (wordOf op a b) = b := by
  rw [bField, wordOf, BitVec.extractLsb'_append_eq_of_le (by decide), BitVec.extractLsb'_append_eq_of_le (by decide)]
  exact BitVec.extractLsb'_append_eq_right

@[simp] theorem cField_wordOf : cField (wordOf op a b) = 0 := by
  rw [cField, wordOf, BitVec.extractLsb'_append_eq_of_le (by decide), BitVec.extractLsb'_append_eq_of_le (by decide)]
  exact BitVec.extractLsb'_append_eq_left

end

theorem append_fields (w : Word) : cField w ++ bField w ++ aField w ++ opField w = w := by
  rw [cField, bField, BitVec.extractLsb'_append_extractLsb'_eq_extractLsb' (by decide), aField,
    BitVec.extractLsb'_append_extractLsb'_eq_extractLsb' (by decide), opField,
    BitVec.extractLsb'_append_extractLsb'_eq_extractLsb' (by decide)]
  exact BitVec.extractLsb'_eq_self

/-- A word is its four fields. -/
theorem word_ext {v w : Word} (hop : opField v = opField w) (ha : aField v = aField w) (hb : bField v = bField w)
    (hc : cField v = cField w) : v = w := by
  rw [← append_fields v, ← append_fields w, hop, ha, hb, hc]

/-! ## A scalar field beside its reserved bits (30_encoding.md R56) -/

theorem reserved_zeroAppend (m : Nat) {n : Nat} (x : BitVec n) : (0#m ++ x).extractLsb' n m = 0#m :=
  BitVec.extractLsb'_append_eq_left

theorem field_zeroAppend (m : Nat) {n : Nat} (x : BitVec n) : (0#m ++ x).extractLsb' 0 n = x :=
  BitVec.extractLsb'_append_eq_right

/-- With its reserved bits 0, a byte is its scalar field under zeros. -/
theorem zeroAppend_field {m n : Nat} {x : BitVec (m + n)} (h : x.extractLsb' n m = 0#m) :
    0#m ++ x.extractLsb' 0 n = x := by
  rw [← h, BitVec.extractLsb'_append_extractLsb'_eq_extractLsb' (Nat.zero_add n).symm]
  exact BitVec.extractLsb'_eq_self

theorem ofBool_beq_one (x : BitVec 1) : BitVec.ofBool (x == 1) = x := by revert x; decide

theorem whenClear_eq_ok {clear : Bool} {i j : Instr} : whenClear clear i = .ok j ↔ clear = true ∧ i = j := by
  cases clear <;> simp [whenClear]

/-! ## The decoder undoes the encoder -/

@[simp] theorem decode_wordOf (op a b : BitVec 8) : decode (wordOf op a b) = decodeFields op a b 0 := by
  simp [decode]

@[simp] theorem shiftField_zeroAppend (f : BitVec 4 → Instr) (shift : BitVec 4) :
    shiftField 0#8 (0#4 ++ shift) 0#8 f = .ok (f shift) := by
  simp [shiftField, whenClear, reserved_zeroAppend 4 shift, field_zeroAppend 4 shift]

/-- Settles O1: the fields of a command's word are those it was built from, and each has its reserved bits 0. -/
theorem decodeEncode : Obligations.DecodeEncode := by
  intro i
  cases i with
  | encsym value shift =>
    simp [encode, decodeFields, whenClear, reserved_zeroAppend 1 value, field_zeroAppend 1 value,
      reserved_zeroAppend 4 shift, field_zeroAppend 4 shift]
  | dequant mag dir =>
    simp [encode, decodeFields, whenClear, reserved_zeroAppend 4 mag, field_zeroAppend 4 mag,
      reserved_zeroAppend 4 dir, field_zeroAppend 4 dir]
  | sendack ok => cases ok <;> rfl
  | decsym _ | encstr _ | decstr _ | hdrfmt _ | frag _ => simp [encode, shiftWord, decodeFields]
  | _ => simp [encode, decodeFields, noField, whenClear]

/-! ## The rows of the opcode table (30_encoding.md R58, R59) -/

/-- A word belongs to a row when each of its fields does. -/
theorem OpRow.holds_iff (r : OpRow) (w : Word) :
    r.holds w = true ↔
      opField w &&& opField r.mask = opField r.pat ∧ aField w &&& aField r.mask = aField r.pat ∧
        bField w &&& bField r.mask = bField r.pat ∧ cField w &&& cField r.mask = cField r.pat := by
  simp only [OpRow.holds, beq_iff_eq, opField, aField, bField, cField, ← BitVec.extractLsb'_and]
  exact ⟨fun h => by simp [h], fun ⟨hop, ha, hb, hc⟩ => word_ext hop ha hb hc⟩

/-- Every row fixes the whole of OP and C, and each bit it fixes above OP is 0. -/
theorem opcodeTable_fields {r : OpRow} (h : r ∈ opcodeTable) :
    opField r.mask = BitVec.allOnes 8 ∧ cField r.mask = BitVec.allOnes 8 ∧
      aField r.pat = 0 ∧ bField r.pat = 0 ∧ cField r.pat = 0 := by
  revert r
  decide

theorem opcodes_nodup : (opcodeTable.map fun r => opField r.pat).Nodup := by decide

theorem opField_of_holds {r : OpRow} (hr : r ∈ opcodeTable) {w : Word} (h : r.holds w = true) :
    opField r.pat = opField w := by
  obtain ⟨hop, -⟩ := (r.holds_iff w).mp h
  rw [← hop, (opcodeTable_fields hr).1, BitVec.and_allOnes]

/-- A word with a row's OP belongs to it when the bits the row reserves are 0. -/
theorem holds_iff_of_opcode {r : OpRow} (hr : r ∈ opcodeTable) {w : Word} (hop : opField r.pat = opField w) :
    r.holds w = true ↔ aField w &&& aField r.mask = 0 ∧ bField w &&& bField r.mask = 0 ∧ cField w = 0 := by
  obtain ⟨hmop, hmc, ha, hb, hc⟩ := opcodeTable_fields hr
  rw [r.holds_iff, hmop, hmc, ha, hb, hc, hop, BitVec.and_allOnes, BitVec.and_allOnes]
  simp

theorem opcodeDefined_of_wordLegal {w : Word} (h : wordLegal w = true) : opcodeDefined (opField w) = true := by
  obtain ⟨r, hr, hholds⟩ := List.any_eq_true.mp h
  exact List.any_eq_true.mpr ⟨r, hr, beq_iff_eq.mpr (opField_of_holds hr hholds)⟩

/-- No word belongs to two rows: they have different opcodes (30_encoding.md R61). -/
theorem length_filter_holds_le_one (w : Word) : (opcodeTable.filter fun r => r.holds w).length ≤ 1 := by
  rw [← List.countP_eq_length_filter]
  calc opcodeTable.countP (fun r => r.holds w)
      ≤ opcodeTable.countP (fun r => opField r.pat == opField w) :=
        List.countP_mono_left fun r hr h => by simpa using opField_of_holds hr h
    _ = (opcodeTable.map fun r => opField r.pat).count (opField w) := by rw [List.count, List.countP_map]; rfl
    _ ≤ 1 := List.nodup_iff_count_le_one.mp opcodes_nodup _

/-- The rows a word belongs to are the one it is known to belong to. -/
theorem filter_holds_eq {r : OpRow} (hr : r ∈ opcodeTable) {w : Word} (h : r.holds w = true) :
    (opcodeTable.filter fun r => r.holds w) = [r] := by
  obtain ⟨r', hr'⟩ := List.length_eq_one_iff.mp <|
    (length_filter_holds_le_one w).antisymm (List.length_pos_of_mem (List.mem_filter.mpr ⟨hr, h⟩))
  have hmem : r ∈ [r'] := hr' ▸ List.mem_filter.mpr ⟨hr, h⟩
  rw [hr', List.mem_singleton.mp hmem]

theorem wordLegal_eq_holds {r : OpRow} (hr : r ∈ opcodeTable) {w : Word} (hop : opField r.pat = opField w) :
    wordLegal w = r.holds w := by
  rw [Bool.eq_iff_iff, wordLegal, List.any_eq_true]
  refine ⟨fun ⟨r', hr', h⟩ => ?_, fun h => ⟨r, hr, h⟩⟩
  have hsame : r = r' := List.inj_on_of_nodup_map opcodes_nodup hr hr' (hop.trans (opField_of_holds hr' h).symm)
  rwa [hsame]

/-! ## The decoder follows the table (30_encoding.md R61) -/

/-- `d` is what the opcode table says of a word: its OP stands in no row, or in the row of the command `i`, and then `d` is `i`
where the word belongs to that row, and the word is that of `i`. -/
inductive TableReading (w : Word) (d : Except DecodeError Instr) : Prop where
  | noRow (hundefined : opcodeDefined (opField w) = false) (hd : d = .error .undefinedOpcode)
  | row (r : OpRow) (i : Instr) (hr : r ∈ opcodeTable) (hop : opField r.pat = opField w)
      (hmnemonic : r.mnemonic = mnemonicOf i) (hd : d = whenClear (r.holds w) i)
      (hword : r.holds w = true → encode i = w)

/-- The row of a command reads a word when the decoder looks at the bits the row's mask keeps, and the command's word has the two
bytes A and B that the scalar fields were read from. -/
theorem TableReading.of_fields {w : Word} {i : Instr} {clear : Bool} {op a b : BitVec 8} {mnemonic : String} {mask : Word}
    {ma mb : BitVec 8} (hop : (opField w).toNat = op.toNat) (hr : ⟨mnemonic, wordOf op 0 0, mask⟩ ∈ opcodeTable)
    (hmnemonic : mnemonic = mnemonicOf i) (hma : aField mask = ma) (hmb : bField mask = mb)
    (hclear : clear = true ↔ aField w &&& ma = 0 ∧ bField w &&& mb = 0 ∧ cField w = 0)
    (hencode : encode i = wordOf op a b) (ha : aField w &&& ma = 0 → a = aField w)
    (hb : bField w &&& mb = 0 → b = bField w) : TableReading w (whenClear clear i) := by
  have hop' : op = opField w := (BitVec.eq_of_toNat_eq hop).symm
  have hpat : opField (wordOf op 0 0) = opField w := by rw [opField_wordOf, hop']
  have hholds := holds_iff_of_opcode hr hpat
  rw [hma, hmb] at hholds
  refine .row _ i hr hpat hmnemonic ?_ fun h => ?_
  · rw [Bool.eq_iff_iff.mpr (hclear.trans hholds.symm)]
  · obtain ⟨hares, hbres, hc⟩ := hholds.mp h
    rw [hencode]
    exact word_ext (by rw [opField_wordOf, hop']) (by rw [aField_wordOf, ha hares]) (by rw [bField_wordOf, hb hbres])
      (by rw [cField_wordOf, hc])

/-! The masks of the opcode table keep the bits of a byte that the decoder looks at (30_encoding.md R56). -/

theorem and_0xFF (x : BitVec 8) : x &&& 0xFF = x := BitVec.and_allOnes

theorem and_0xF0_eq_zero_iff (x : BitVec 8) : x &&& 0xF0 = 0 ↔ x.extractLsb' 4 4 = 0 := by revert x; decide

theorem and_0x80_eq_zero_iff (x : BitVec 8) : x &&& 0x80 = 0 ↔ x.extractLsb' 7 1 = 0 := by revert x; decide

theorem and_0xFE_eq_zero_iff (x : BitVec 8) : x &&& 0xFE = 0 ↔ x.extractLsb' 1 7 = 0 := by revert x; decide

theorem TableReading.of_noField {w : Word} {i : Instr} (op : BitVec 8) (hop : (opField w).toNat = op.toNat)
    (hr : ⟨mnemonicOf i, wordOf op 0 0, 0xFFFFFFFF⟩ ∈ opcodeTable) (hencode : encode i = wordOf op 0 0) :
    TableReading w (noField (aField w) (bField w) (cField w) i) := by
  refine .of_fields hop hr rfl (ma := 0xFF) (mb := 0xFF) rfl rfl ?_ hencode ?_ ?_
  · simp only [and_0xFF, Bool.and_eq_true, beq_iff_eq, and_assoc]
  · exact fun h => (and_0xFF _ ▸ h).symm
  · exact fun h => (and_0xFF _ ▸ h).symm

theorem TableReading.of_shiftField {w : Word} {f : BitVec 4 → Instr} (op : BitVec 8) (mnemonic : String)
    (hop : (opField w).toNat = op.toNat) (hr : ⟨mnemonic, wordOf op 0 0, 0xFFF0FFFF⟩ ∈ opcodeTable)
    (hmnemonic : ∀ shift, mnemonic = mnemonicOf (f shift)) (hencode : ∀ shift, encode (f shift) = shiftWord op shift) :
    TableReading w (shiftField (aField w) (bField w) (cField w) f) := by
  refine .of_fields hop hr (hmnemonic _) (ma := 0xFF) (mb := 0xF0) rfl rfl ?_ (hencode _) ?_ ?_
  · simp only [and_0xFF, and_0xF0_eq_zero_iff, Bool.and_eq_true, beq_iff_eq, and_assoc]
  · exact fun h => (and_0xFF _ ▸ h).symm
  · exact fun h => zeroAppend_field (m := 4) ((and_0xF0_eq_zero_iff _).mp h)

theorem opcodeDefined_iff (op : BitVec 8) :
    opcodeDefined op = true ↔
      op.toNat ∈ [0x01, 0x02, 0x10, 0x11, 0x12, 0x13, 0x20, 0x21, 0x22, 0x30, 0x31, 0x32, 0x33, 0x34, 0x40, 0x41, 0x42, 0x43,
        0x44, 0x50, 0x51, 0x52, 0x53, 0x54, 0x55, 0x56] := by
  revert op
  decide

/-- Every word is decoded as the opcode table reads it, opcode by opcode. -/
theorem decode_reading (w : Word) : TableReading w (decode w) := by
  rw [decode, decodeFields]
  split
  case h_1 hop => exact .of_noField 0x01 hop (by decide) rfl
  case h_2 hop => exact .of_noField 0x02 hop (by decide) rfl
  case h_3 hop =>
    have hr : ⟨"ENCSYM", wordOf 0x10 0 0, 0xFFF080FF⟩ ∈ opcodeTable := by decide
    refine .of_fields (op := 0x10) hop hr rfl (ma := 0x80) (mb := 0xF0) rfl rfl ?_ rfl ?_ ?_
    · simp only [and_0x80_eq_zero_iff, and_0xF0_eq_zero_iff, Bool.and_eq_true, beq_iff_eq, and_assoc]
    · exact fun h => zeroAppend_field (m := 1) ((and_0x80_eq_zero_iff _).mp h)
    · exact fun h => zeroAppend_field (m := 4) ((and_0xF0_eq_zero_iff _).mp h)
  case h_4 hop => exact .of_shiftField 0x11 "DECSYM" hop (by decide) (fun _ => rfl) fun _ => rfl
  case h_5 hop => exact .of_shiftField 0x12 "ENCSTR" hop (by decide) (fun _ => rfl) fun _ => rfl
  case h_6 hop => exact .of_shiftField 0x13 "DECSTR" hop (by decide) (fun _ => rfl) fun _ => rfl
  case h_7 hop => exact .of_noField 0x20 hop (by decide) rfl
  case h_8 hop =>
    have hr : ⟨"DEQUANT", wordOf 0x21 0 0, 0xFFF0F0FF⟩ ∈ opcodeTable := by decide
    refine .of_fields (op := 0x21) hop hr rfl (ma := 0xF0) (mb := 0xF0) rfl rfl ?_ rfl ?_ ?_
    · simp only [and_0xF0_eq_zero_iff, Bool.and_eq_true, beq_iff_eq, and_assoc]
    · exact fun h => zeroAppend_field (m := 4) ((and_0xF0_eq_zero_iff _).mp h)
    · exact fun h => zeroAppend_field (m := 4) ((and_0xF0_eq_zero_iff _).mp h)
  case h_9 hop => exact .of_noField 0x22 hop (by decide) rfl
  case h_10 hop => exact .of_noField 0x30 hop (by decide) rfl
  case h_11 hop => exact .of_noField 0x31 hop (by decide) rfl
  case h_12 hop => exact .of_noField 0x32 hop (by decide) rfl
  case h_13 hop => exact .of_noField 0x33 hop (by decide) rfl
  case h_14 hop => exact .of_noField 0x34 hop (by decide) rfl
  case h_15 hop => exact .of_shiftField 0x40 "HDRFMT" hop (by decide) (fun _ => rfl) fun _ => rfl
  case h_16 hop => exact .of_shiftField 0x41 "FRAG" hop (by decide) (fun _ => rfl) fun _ => rfl
  case h_17 hop => exact .of_noField 0x42 hop (by decide) rfl
  case h_18 hop =>
    have hr : ⟨"SENDACK", wordOf 0x43 0 0, 0xFFFFFEFF⟩ ∈ opcodeTable := by decide
    refine .of_fields (op := 0x43) hop hr rfl (ma := 0xFE) (mb := 0xFF) rfl rfl ?_ rfl ?_ ?_
    · simp only [and_0xFE_eq_zero_iff, and_0xFF, Bool.and_eq_true, beq_iff_eq, and_assoc]
    · intro h
      rw [ofBool_beq_one]
      exact zeroAppend_field (m := 7) ((and_0xFE_eq_zero_iff _).mp h)
    · exact fun h => (and_0xFF _ ▸ h).symm
  case h_19 hop => exact .of_noField 0x44 hop (by decide) rfl
  case h_20 hop => exact .of_noField 0x50 hop (by decide) rfl
  case h_21 hop => exact .of_noField 0x51 hop (by decide) rfl
  case h_22 hop => exact .of_noField 0x52 hop (by decide) rfl
  case h_23 hop => exact .of_noField 0x53 hop (by decide) rfl
  case h_24 hop => exact .of_noField 0x54 hop (by decide) rfl
  case h_25 hop => exact .of_noField 0x55 hop (by decide) rfl
  case h_26 hop => exact .of_noField 0x56 hop (by decide) rfl
  case h_27 =>
    refine .noRow ?_ rfl
    rw [← Bool.not_eq_true, opcodeDefined_iff]
    simp_all

/-- Settles O2: a word the decoder accepts belongs to the row of its command, which keeps every bit of it. -/
theorem encodeDecode : Obligations.EncodeDecode := by
  intro w i h
  cases decode_reading w with
  | noRow _ hd => rw [hd] at h; cases h
  | row r j _ _ _ hd hword =>
    rw [hd] at h
    obtain ⟨hholds, rfl⟩ := whenClear_eq_ok.mp h
    exact hword hholds

theorem map_mnemonic_filter_holds_encode (i : Instr) :
    (opcodeTable.filter fun r => r.holds (encode i)).map OpRow.mnemonic = [mnemonicOf i] := by
  have h := decodeEncode i
  cases decode_reading (encode i) with
  | noRow _ hd => rw [hd] at h; cases h
  | row r j hr _ hmnemonic hd _ =>
    rw [hd] at h
    obtain ⟨hholds, rfl⟩ := whenClear_eq_ok.mp h
    rw [filter_holds_eq hr hholds, List.map_singleton, hmnemonic]

/-- Settles O3: the decoder reads each word as its one row says, if it has one. -/
theorem decodeFollowsTable : Obligations.DecodeFollowsTable := by
  refine ⟨fun w => ?_, map_mnemonic_filter_holds_encode⟩
  rw [← opField]
  cases decode_reading w with
  | noRow hundefined hd =>
    have hlegal : wordLegal w = false :=
      Bool.eq_false_iff.mpr fun h => absurd (opcodeDefined_of_wordLegal h) (Bool.eq_false_iff.mp hundefined)
    simp [hd, hundefined, hlegal, length_filter_holds_le_one]
  | row r i hr hop _ hd _ =>
    have hdefined : opcodeDefined (opField w) = true := List.any_eq_true.mpr ⟨r, hr, beq_iff_eq.mpr hop⟩
    rw [hd, wordLegal_eq_holds hr hop, hdefined]
    cases r.holds w <;> simp [whenClear, length_filter_holds_le_one]

/-- Settles O4: the decoder run on each word. -/
theorem sampleWords : Obligations.SampleWords := ⟨rfl, rfl, rfl, rfl, rfl, rfl, rfl, rfl⟩

end Sys2Proof
end

section
/-! PROOFS. ENCSYM and ENCSTR (spec/30_encoding.md R65, R66; 41_alphabet.md R76, R78), and the six commands' check of the shift field
(30_encoding.md R60). -/

namespace Sys2Proof.Machine

/-! ## The shift field (30_encoding.md R60) -/

section
variable {s : State} {shift : BitVec 4} (f : Nat → Except Err Value)

theorem datapath_shift_error (h : s.cfg.legal = true) (hshift : 10 ≤ shift.toNat) :
    datapath s (do let k ← shiftOf s.cfg shift; f k) = .next { s with out := .err (.shiftRange shift.toNat) } := by
  rw [shiftOf_error h hshift]
  exact datapath_error h _

theorem datapath_shift_ok (h : s.cfg.legal = true) (hshift : shift.toNat ≤ 9) :
    datapath s (do let k ← shiftOf s.cfg shift; f k) = datapath s (f shift.toNat) := by
  rw [shiftOf_ok h hshift]
  rfl

end

/-- Settles O12: each of the six commands reads the shift field first. -/
theorem shiftRangeRaised : Obligations.ShiftRangeRaised := by
  intro s value shift hlegal hshift i hi
  simp only [List.mem_cons, List.not_mem_nil, or_false] at hi
  obtain rfl | rfl | rfl | rfl | rfl | rfl := hi <;> exact datapath_shift_error _ hlegal hshift

/-! ## The text of a symbol (30_encoding.md R65) -/

theorem safeSet_getElem? {cfg : Cfg} (h : cfg.legal = true) {i : Nat} (hi : i < 122) :
    cfg.safeSet[i]? = some (cfg.safeSet.getD i escMark) := by
  obtain ⟨hlen, -⟩ := Cfg.legal_safeSet h
  rw [List.getElem?_eq_getElem (hlen ▸ hi), List.getD_eq_getElem _ _ (hlen ▸ hi)]

/-- A symbol from 122 on is written as its escape pair, whatever the shift. -/
theorem encodeSymbol_pair {cfg : Cfg} (h : cfg.legal = true) {x : Sym} (k : Nat) (hx : 122 ≤ x.toNat) :
    cfg.escTable[x.toNat - 122]? = some (encodeSymbol cfg x k) ∧ (encodeSymbol cfg x k).length = 2 := by
  have hsym := x.isLt
  obtain ⟨d, hd, -⟩ := escTable_entry h (i := x.toNat - 122) (by omega)
  rw [encodeSymbol_escape cfg k hx, List.getD_eq_getElem?_getD, hd]
  exact ⟨rfl, rfl⟩

theorem encodeSymbol_length {cfg : Cfg} (h : cfg.legal = true) (x : Sym) (k : Nat) :
    (encodeSymbol cfg x k).length = if x.toNat ≤ 121 then 1 else 2 := by
  split
  · next hx => rw [encodeSymbol_safe cfg k hx, List.length_singleton]
  · next hx => exact (encodeSymbol_pair h k (by omega)).2

/-- Settles O14: ENCSYM answers the text of its symbol, one character of SAFE_SET or a pair of ESC_TABLE. -/
theorem encsymResult : Obligations.EncsymResult := by
  intro s value shift hlegal hshift
  refine ⟨encodeSymbol s.cfg value shift.toNat, ?_, fun hsafe => ?_, encodeSymbol_pair hlegal _⟩
  · exact (datapath_shift_ok _ hlegal hshift).trans (datapath_ok hlegal _)
  · exact ⟨_, safeSet_getElem? hlegal (Nat.mod_lt _ (by decide)), encodeSymbol_safe s.cfg _ hsafe⟩

/-! ## ENCSTR (30_encoding.md R66) -/

theorem symbolsOf_map_toNat (name : OperandName) (ss : List Sym) : symbolsOf name (ss.map BitVec.toNat) = .ok ss := by
  have hrange : (ss.map BitVec.toNat).all (fun n => decide (n < 128)) = true := by
    simpa using fun x _ => x.isLt
  simp [symbolsOf, hrange, Function.comp_def]

theorem encodeText_length {cfg : Cfg} (h : cfg.legal = true) (ss : List Sym) (k : Nat) :
    (encodeText cfg ss k).length = ss.length + (ss.filter fun x => decide (122 ≤ x.toNat)).length := by
  induction ss with
  | nil => rfl
  | cons x xs ih =>
    rw [encodeText_cons, List.length_append, encodeSymbol_length h, ih, List.filter_cons, List.length_cons]
    by_cases hx : x.toNat ≤ 121
    · rw [if_pos hx, if_neg (by simpa using Nat.lt_succ_of_le hx)]
      omega
    · rw [if_neg hx, if_pos (decide_eq_true (by omega)), List.length_cons]
      omega

/-- Settles O16: ENCSTR answers the text of its symbols, each as long as `encodeSymbol_length` says. -/
theorem encstrResult : Obligations.EncstrResult := by
  refine ⟨fun cfg x k hlegal _ => encodeSymbol_length hlegal x k, fun s ss shift hlegal hshift hport => ?_⟩
  refine ⟨encodeText s.cfg ss shift.toNat, ?_, List.flatMap_def, encodeText_length hlegal ss _⟩
  refine (datapath_shift_ok _ hlegal hshift).trans ?_
  rw [hport, symbolsOf_map_toNat]
  exact datapath_ok hlegal _

end Sys2Proof.Machine
end

section
/-! PROOFS. PACK and GROUP bit by bit (spec/30_encoding.md R63, R64; 43_bitpacker.md R91, R92). -/

namespace Sys2Proof.Machine

/-! ## PACK (30_encoding.md R63) -/

theorem samplesOf_map_toNat (name : OperandName) (S : List Sample) :
    samplesOf name (S.map fun q => (q.1.toNat, q.2.toNat)) = .ok S := by
  have hrange : (S.map fun q : Sample => (q.1.toNat, q.2.toNat)).all
      (fun p => decide (p.1 < 16) && decide (p.2 < 16)) = true := by
    simpa using fun a b _ => ⟨a.isLt, b.isLt⟩
  simp [samplesOf, hrange, Function.comp_def]

section
variable {α : Type} {w : Nat} (f : α → BitVec w)

theorem flatMap_bitsMsb_length (xs : List α) : (xs.flatMap fun x => bitsMsb (f x)).length = w * xs.length := by
  simp [List.length_flatMap, Nat.mul_comm]

/-- Values of one width laid out one after another: bit i of the value at place c stands at w * c + i. -/
theorem flatMap_bitsMsb_getElem? {xs : List α} {c : Nat} {x : α} (hx : xs[c]? = some x) {i : Nat} (hi : i < w) :
    (xs.flatMap fun x => bitsMsb (f x))[w * c + i]? = some ((f x).getMsbD i) := by
  induction xs generalizing c with
  | nil => simp at hx
  | cons y ys ih =>
    rw [List.flatMap_cons]
    cases c with
    | zero =>
      obtain rfl : y = x := by simpa using hx
      rw [Nat.mul_zero, Nat.zero_add, List.getElem?_append_left (by simpa using hi), bitsMsb_getElem? _ hi]
    | succ c =>
      have hplace : w * (c + 1) + i = (bitsMsb (f y)).length + (w * c + i) := by rw [bitsMsb_length]; ring
      rw [hplace, List.getElem?_append_right (Nat.le_add_right _ _), Nat.add_sub_cancel_left]
      exact ih hx

end

theorem getMsbD_three_sub (x : Nib) {k : Nat} (hk : k < 4) : x.getMsbD (3 - k) = x.getLsbD k := by
  rw [BitVec.getMsbD, show 4 - 1 - (3 - k) = k by omega, decide_eq_true (by omega : 3 - k < 4), Bool.true_and]

/-- Settles O25: PACK answers the magnitudes and then the directions, four bits a sample in each half. -/
theorem packLayout : Obligations.PackLayout := by
  intro s S hlegal hport
  refine ⟨packSamples S, ?_, packSamples_length S, fun c q k hq hk => ?_⟩
  · rw [exec, execPack, hport, samplesOf_map_toNat]
    exact datapath_ok hlegal _
  · have hmag := flatMap_bitsMsb_getElem? Prod.fst hq (i := 3 - k) (by omega)
    have hdir := flatMap_bitsMsb_getElem? Prod.snd hq (i := 3 - k) (by omega)
    have hhalf := flatMap_bitsMsb_length Prod.fst S
    rw [getMsbD_three_sub _ hk] at hmag hdir
    refine ⟨?_, ?_⟩
    · rw [packSamples, List.getElem?_append_left (List.getElem?_eq_some_iff.mp hmag).1, hmag]
    · rw [packSamples, Nat.add_assoc, ← hhalf, List.getElem?_append_right (Nat.le_add_right _ _), Nat.add_sub_cancel_left, hdir]

/-! ## GROUP (30_encoding.md R64) -/

theorem bitsOf_map_toNat (name : OperandName) (b : Bits) : bitsOf name (b.map Bool.toNat) = .ok b := by
  have hrange : (b.map Bool.toNat).all (fun n => decide (n < 2)) = true := by
    simp
  have hback : (b.map Bool.toNat).map (fun n => decide (n = 1)) = b := by
    rw [List.map_map]
    exact (List.map_congr_left fun x _ => by cases x <;> rfl).trans (List.map_id b)
  rw [bitsOf, hback]
  exact if_pos hrange

theorem groupBits_length (b : Bits) : (groupBits b).length = (b.length + 6) / 7 := by
  induction hn : b.length using Nat.strong_induction_on generalizing b with
  | _ n ih =>
    by_cases hb : b = []
    · subst hb hn; rfl
    · have hpos := List.length_pos_of_ne_nil hb
      rw [groupBits_step hb, List.length_cons, ih (b.drop 7).length (by rw [List.length_drop]; omega) _ rfl, List.length_drop]
      omega

/-- Bit 6 - t of the symbol of the first window is bit t of the string, or 0 past its end. -/
theorem window_getLsbD (b : Bits) {t : Nat} (ht : t < 7) :
    (BitVec.ofNat 7 (valBits (padWindow (b.take 7)))).getLsbD (6 - t) = (b[t]?).getD false := by
  have hlen : (padWindow (b.take 7)).length = 7 := by simp [padWindow]
  rw [BitVec.getLsbD_ofNat, valBits_testBit, hlen, show 7 - 1 - (6 - t) = t by omega, List.getD_eq_getElem?_getD, padWindow]
  simp only [show 6 - t < 7 by omega, decide_true, Bool.true_and]
  by_cases hin : t < b.length
  · rw [List.getElem?_append_left (by rw [List.length_take]; omega), List.getElem?_take_of_lt ht]
  · rw [List.getElem?_append_right (by rw [List.length_take]; omega), List.getElem?_eq_none (by omega : b.length ≤ t)]
    rw [List.getElem?_replicate]
    split <;> rfl

theorem groupBits_getLsbD {b : Bits} {j : Nat} {x : Sym} (hx : (groupBits b)[j]? = some x) {t : Nat} (ht : t < 7) :
    x.getLsbD (6 - t) = (b[7 * j + t]?).getD false := by
  induction j generalizing b with
  | zero =>
    by_cases hb : b = []
    · subst hb; simp at hx
    · rw [groupBits_step hb, List.getElem?_cons_zero, Option.some.injEq] at hx
      rw [← hx, window_getLsbD b ht, Nat.mul_zero, Nat.zero_add]
  | succ j ih =>
    by_cases hb : b = []
    · subst hb; simp at hx
    · rw [groupBits_step hb, List.getElem?_cons_succ] at hx
      rw [ih hx, List.getElem?_drop, show 7 + (7 * j + t) = 7 * (j + 1) + t by ring]

/-- Settles O26: GROUP answers one symbol a window, and a window past the end of the string is filled with zeros. -/
theorem groupLayout : Obligations.GroupLayout := by
  intro s b hlegal hport
  refine ⟨groupBits b, ?_, groupBits_length b, fun j x t hx ht => groupBits_getLsbD hx ht⟩
  rw [exec, execGroup, hport, bitsOf_map_toNat]
  exact datapath_ok hlegal _

end Sys2Proof.Machine
end

section
/-! PROOFS. The token REAL reads `fl` of the exact decimal value (spec/30_encoding.md R72; 00_scope.md R16). -/

namespace Sys2Proof

/-- A text that does not begin with a digit: what may follow the digits of a numeral. -/
def digitsEnd (t : Text) : Prop := ∀ c ∈ t.head?, isDigit c = false

section
variable {ds rest : Text} (hds : ∀ c ∈ ds, isDigit c = true) (hrest : digitsEnd rest)
include hds hrest

theorem takeWhile_isDigit_append : (ds ++ rest).takeWhile isDigit = ds := by
  rw [List.takeWhile_append_of_pos hds]
  cases rest with
  | nil => simp
  | cons c r => simp [hrest c rfl]

theorem dropWhile_isDigit_append : (ds ++ rest).dropWhile isDigit = rest := by
  rw [List.dropWhile_append_of_pos hds]
  cases rest with
  | nil => rfl
  | cons c r => simp [hrest c rfl]

end

/-! ## The parts of a numeral after its first digits -/

/-- An exponent part is empty or begins with its letter. -/
theorem head?_of_parseExponent {expo : Text} {e : Int} (h : parseExponent expo = some e) :
    ∀ c ∈ expo.head?, c = 'e' ∨ c = 'E' := by
  intro c hc
  obtain ⟨r, rfl⟩ : ∃ r, expo = c :: r := List.head?_eq_some_iff.mp hc
  by_contra hletter
  simp [parseExponent, hletter] at h

/-- The fraction part as it is written: nothing, or a point and its digits (30_encoding.md R72). -/
def fractionText (frac : Text) : Text := if frac = [] then [] else '.' :: frac

section
variable {frac expo : Text} {e : Int}

theorem digitsEnd_of_parseExponent (h : parseExponent expo = some e) : digitsEnd expo := by
  intro c hc
  obtain rfl | rfl := head?_of_parseExponent h c hc <;> rfl

theorem digitsEnd_fractionText (h : parseExponent expo = some e) : digitsEnd (fractionText frac ++ expo) := by
  rw [fractionText]
  split
  · exact digitsEnd_of_parseExponent h
  · rintro c ⟨⟩
    rfl

theorem parseFraction_fractionText (hfrac : ∀ c ∈ frac, isDigit c = true) (h : parseExponent expo = some e) :
    parseFraction (fractionText frac ++ expo) = some (frac, expo) := by
  have hend := digitsEnd_of_parseExponent h
  rw [fractionText]
  split
  · next hnone =>
    subst hnone
    rw [List.nil_append, parseFraction]
    rintro r rfl
    simpa using head?_of_parseExponent h '.' rfl
  · next hsome =>
    rw [List.cons_append, parseFraction, takeWhile_isDigit_append hfrac hend, dropWhile_isDigit_append hfrac hend,
      if_neg hsome]

end

/-- An unsigned numeral is read as `fl` of its digits' number, scaled by the exponent and the length of the fraction. -/
theorem parseUnsignedReal_parts (neg : Bool) {whole frac expo : Text} {e : Int} (hne : whole ≠ [])
    (hdigits : ∀ c ∈ whole ++ frac, isDigit c = true) (h : parseExponent expo = some e) :
    parseUnsignedReal neg (whole ++ (fractionText frac ++ expo)) =
      let x := F64.ofDecimal neg (natOfDigits (whole ++ frac)) (e - (frac.length : Int))
      if x.isFinite then some x else none := by
  have hwhole : ∀ c ∈ whole, isDigit c = true := fun c hc => hdigits c (List.mem_append_left _ hc)
  have hfrac : ∀ c ∈ frac, isDigit c = true := fun c hc => hdigits c (List.mem_append_right _ hc)
  have hend : digitsEnd (fractionText frac ++ expo) := digitsEnd_fractionText h
  simp [parseUnsignedReal, takeWhile_isDigit_append hwhole hend, dropWhile_isDigit_append hwhole hend, hne,
    parseFraction_fractionText hfrac h, h]

theorem parseReal_digit {c : Char} (h : isDigit c = true) (t : Text) :
    parseReal (c :: t) = parseUnsignedReal false (c :: t) := by
  rw [parseReal]
  rintro t' ⟨⟩
  cases h

/-- Settles O36: the sign, the digits and the parts after them are taken off in turn, and `F64.ofDecimal_eq` gives the value. -/
theorem realValueRead : Obligations.RealValueRead := by
  intro neg whole frac expo e hne hdigits hexpo
  rw [← fractionText, ← F64.ofDecimal_eq, List.append_assoc, List.append_assoc, ← parseUnsignedReal_parts neg hne hdigits hexpo]
  cases neg with
  | true => rfl
  | false =>
    obtain ⟨c, cs, rfl⟩ := List.exists_cons_of_ne_nil hne
    exact parseReal_digit (hdigits c (by simp)) _

end Sys2Proof
end

section
/-! PROOFS. The pseudo-instruction ENCODE (spec/30_encoding.md R74). -/

namespace Sys2Proof.Machine

/-! ## START and SENDACK do not look at the acts to come

ENCODE is computed from a state with none of its own acts pending, and runs with them pending. -/

section
variable (s : State) (acts : List HostAct)

theorem render_afterAct (before : State) :
    (s.afterAct acts).render (before.afterAct acts) = (s.render before).afterAct acts := by
  unfold State.render
  simp only [State.afterAct_cfg, State.afterAct_shift, State.afterAct_index, State.afterAct_syms, State.afterAct_cursor,
    State.afterAct_header]
  split
  · rfl
  · split <;> rfl

theorem begin_afterAct (F : WindField) : (s.afterAct acts).begin F = (s.begin F).afterAct acts := by
  unfold State.begin
  rw [State.afterAct_cfg]
  split
  · rfl
  · split
    · rfl
    · next S _ => exact render_afterAct ((s.cleared.withField F).withSamples S) acts s

theorem startNext_afterAct : (s.afterAct acts).startNext = s.startNext.afterAct acts := by
  rw [State.startNext, State.startNext, apply_ite (State.afterAct · acts)]
  refine if_congr Iff.rfl rfl ?_
  rw [State.afterAct_port]
  split
  · rfl
  · exact begin_afterAct s acts _

theorem accepted_afterAct : (s.afterAct acts).accepted = s.accepted.afterAct acts := by
  rw [State.accepted, State.accepted, apply_ite (State.afterAct · acts)]
  exact if_congr Iff.rfl rfl (render_afterAct s.advanced acts s)

theorem rejected_afterAct : (s.afterAct acts).rejected = s.rejected.afterAct acts := by
  rw [State.rejected, State.rejected, apply_ite (State.afterAct · acts)]
  exact if_congr Iff.rfl rfl (render_afterAct s.retried acts s)

theorem sendackNext_afterAct (ok : Bool) : (s.afterAct acts).sendackNext ok = (s.sendackNext ok).afterAct acts := by
  rw [State.sendackNext, State.sendackNext, apply_ite (State.afterAct · acts), apply_ite (State.afterAct · acts)]
  exact if_congr Iff.rfl rfl (if_congr Iff.rfl (accepted_afterAct s acts) (rejected_afterAct s acts))

end

/-! ## One act of ENCODE -/

section
variable {s : State}

theorem exec_start (h : s.cfg.legal = true) : exec .start s = .next s.startNext := guarded_eq_next h

theorem exec_sendack (h : s.cfg.legal = true) (ok : Bool) : exec (.sendack ok) s = .next (s.sendackNext ok) :=
  guarded_eq_next h

theorem run_succ {t : State} (h : step s = .next t) (k : Nat) :
    Host.Core.run Sys2Proof.core (k + 1) s = Host.Core.run Sys2Proof.core k t := by
  have hstep : Sys2Proof.core.step s = .next t := h
  simp only [Host.Core.run, hstep]

theorem step_start (h : s.cfg.legal = true) (acts : List HostAct) :
    step (s.afterAct (.command 0x00000042 s.port :: acts)) = .next (s.startNext.afterAct acts) := by
  rw [step_command rfl (rfl : decode 0x00000042 = .ok .start), ← startNext_afterAct]
  exact exec_start (s := s.afterAct acts) h

theorem step_answerAct (h : s.cfg.legal = true) (ok : Bool) (acts : List HostAct) :
    step (s.afterAct (answerAct s.port ok :: acts)) = .next ((s.sendackNext ok).afterAct acts) := by
  have hdecode : decode (if ok then 0x00000143 else 0x00000043) = .ok (.sendack ok) := by cases ok <;> rfl
  rw [step_command rfl hdecode, ← sendackNext_afterAct]
  exact exec_sendack (s := s.afterAct acts) h ok

end

/-! ## The answers of ENCODE -/

theorem answersWhileSending_of_not_sending (operands : Port) {s : State} (h : s.state ≠ .sending) (answers : List Bool) :
    answersWhileSending operands s answers = [] := by
  cases answers with
  | nil => rfl
  | cons ok answers => exact if_neg h

theorem answersWhileSending_cons (operands : Port) {s : State} (hlegal : s.cfg.legal = true) (h : s.state = .sending)
    (ok : Bool) (answers : List Bool) :
    answersWhileSending operands s (ok :: answers) =
      answerAct operands ok :: answersWhileSending operands (s.sendackNext ok) answers := by
  rw [answersWhileSending, if_pos h, exec_sendack hlegal]

/-- Run from `s`, the acts that begin with the `n` answers ENCODE presents leave `rest`: the block is SENDING before each answer, and
after the last it is not, or the transport callback has no more answers. -/
structure AnswersRun (s : State) (answers : List Bool) (rest acts : List HostAct) (n : Nat) : Prop where
  waits : ∀ k < n, ∃ t, Host.Core.run Sys2Proof.core k (s.afterAct acts) = .next t ∧ t.state = .sending
  ends : ∃ t, Host.Core.run Sys2Proof.core n (s.afterAct acts) = .next t ∧ t.pending = rest ∧
    (n = answers.length ∨ t.state ≠ .sending) ∧ (s.Inv → t.Inv)

theorem AnswersRun.none {s : State} {answers : List Bool} (rest : List HostAct) (h : answers = [] ∨ s.state ≠ .sending) :
    AnswersRun s answers rest rest 0 where
  waits k hk := absurd hk (Nat.not_lt_zero k)
  ends := ⟨s.afterAct rest, rfl, rfl, h.imp_left fun (hnil : answers = []) => hnil ▸ rfl,
    fun hinv => hinv.withPorts s.port s.out rest⟩

theorem AnswersRun.cons {s : State} {answers : List Bool} {rest acts : List HostAct} {n : Nat} (hlegal : s.cfg.legal = true)
    (hs : s.state = .sending) {ok : Bool} (h : AnswersRun (s.sendackNext ok) answers rest acts n) :
    AnswersRun s (ok :: answers) rest (answerAct s.port ok :: acts) (n + 1) where
  waits k hk := by
    cases k with
    | zero => exact ⟨_, rfl, hs⟩
    | succ k =>
      rw [run_succ (step_answerAct hlegal ok acts)]
      exact h.waits k (Nat.lt_of_succ_lt_succ hk)
  ends := by
    obtain ⟨t, hrun, hpending, hend, hinv⟩ := h.ends
    rw [run_succ (step_answerAct hlegal ok acts)]
    exact ⟨t, hrun, hpending, hend.imp_left (congrArg (· + 1)), fun hs => hinv (sendackNext_inv hs ok)⟩

/-- ENCODE presents the first answers, and they run as it means them to. -/
theorem exists_answersRun (rest : List HostAct) (answers : List Bool) {s : State} (hlegal : s.cfg.legal = true) :
    ∃ n ≤ answers.length, answersWhileSending s.port s answers = (answers.take n).map (answerAct s.port) ∧
      AnswersRun s answers rest (answersWhileSending s.port s answers ++ rest) n := by
  induction answers generalizing s with
  | nil => exact ⟨0, le_rfl, rfl, .none rest (.inl rfl)⟩
  | cons ok answers ih =>
    by_cases hs : s.state = .sending
    · obtain ⟨hport, hcfg, -⟩ := sendackNext_sameInputs s ok
      obtain ⟨n, hn, hacts, hrun⟩ := ih (s := s.sendackNext ok) (hcfg ▸ hlegal)
      rw [hport] at hacts hrun
      rw [answersWhileSending_cons _ hlegal hs]
      exact ⟨n + 1, Nat.succ_le_succ hn, congrArg _ hacts, hrun.cons hlegal hs⟩
    · rw [answersWhileSending_of_not_sending _ hs]
      exact ⟨0, Nat.zero_le _, rfl, .none rest (.inr hs)⟩

/-! ## ENCODE -/

theorem encodeActs_eq {s : State} (operands : Port) (answers : List Bool) (hlegal : s.cfg.legal = true)
    (hs : s.state ≠ .sending) :
    encodeActs s operands answers =
      .command 0x00000042 operands ::
        answersWhileSending operands (s.withOperands operands s.pending).startNext answers := by
  have hexec : exec .start { s with port := operands } = .next (s.withOperands operands s.pending).startNext :=
    exec_start (s := s.withOperands operands s.pending) hlegal
  rw [encodeActs, if_neg hs, hexec]

/-- Under the invariant, what ENCODE yields is read off STATE (10_state.md R27). -/
theorem State.Inv.encodeYield_eq {s : State} (h : s.Inv) :
    encodeYield s = if s.state = .done then some true else if s.state.ended then some false else none := by
  have houtcome := h.outcome
  rw [State.outcomeAgrees] at houtcome
  rw [encodeYield]
  cases hs : s.state <;> rw [hs] at houtcome <;> simp [houtcome, SeqState.ended]

/-- Settles O51: START and then `exists_answersRun` from the state it leaves. -/
theorem encodeExpansion : Obligations.EncodeExpansion := by
  intro s operands answers rest hlegal hs
  rw [encodeActs_eq operands answers hlegal hs]
  obtain ⟨hport, hcfg, -⟩ := startNext_sameInputs (s.withOperands operands s.pending)
  obtain ⟨n, hn, hacts, hrun⟩ := exists_answersRun rest answers
    (s := (s.withOperands operands s.pending).startNext) (hcfg ▸ hlegal)
  rw [hport, State.withOperands_port] at hacts hrun
  have hrunStart := run_succ (step_start (s := s.withOperands operands s.pending) hlegal
    (answersWhileSending operands (s.withOperands operands s.pending).startNext answers ++ rest))
  refine ⟨n, hn, congrArg _ hacts, fun k hk => ?_, ?_⟩
  · obtain ⟨t, ht, hsending⟩ := hrun.waits k hk
    exact ⟨t, (hrunStart k).trans ht, hsending⟩
  · obtain ⟨t, ht, hpending, hend, hinv⟩ := hrun.ends
    exact ⟨t, (hrunStart n).trans ht, hpending, hend, fun h => (hinv (startNext_inv (h.withOperands _ _))).encodeYield_eq⟩

end Sys2Proof.Machine
end

section
/-! PROOFS. DECSYM and DECSTR, and their round trips with ENCSYM and ENCSTR (spec/41_alphabet.md R77, R79 to R82). -/

namespace Sys2Proof.Machine

/-! ## The places of a character and of a pair in a legal configuration's tables -/

/-- The only place of an entry of a list without repeats is the first place a search for it finds. -/
theorem findIdx?_of_nodup {α : Type} {xs : List α} {p : α → Bool} {a : α} {i : Nat} (hnodup : xs.Nodup)
    (hi : xs[i]? = some a) (hp : ∀ x, p x = true ↔ x = a) : xs.findIdx? p = some i := by
  obtain ⟨hlt, rfl⟩ := List.getElem?_eq_some_iff.mp hi
  refine List.findIdx?_eq_some_iff_getElem.mpr ⟨hlt, (hp _).mpr rfl, fun j hj hfound => ?_⟩
  exact Nat.ne_of_lt hj (hnodup.getElem_inj_iff.mp ((hp _).mp hfound))

section
variable {cfg : Cfg}

theorem safeIndex_of_getElem? (h : cfg.legal = true) {j : Nat} {c : Char} (hj : cfg.safeSet[j]? = some c) :
    safeIndex cfg c = some j := by
  obtain ⟨-, hnodup, -⟩ := Cfg.legal_safeSet h
  exact findIdx?_of_nodup hnodup hj fun d => sameChar_iff d c

theorem safeIndex_of_notMem {c : Char} (hc : c ∉ cfg.safeSet) : safeIndex cfg c = none :=
  List.findIdx?_eq_none_iff.mpr fun d hd => Bool.eq_false_iff.mpr fun hsame => hc ((sameChar_iff d c).mp hsame ▸ hd)

theorem escapeIndex_of_getElem? (h : cfg.legal = true) {i : Nat} {pair : Text} (hi : cfg.escTable[i]? = some pair) :
    escapeIndex cfg pair = some i := by
  obtain ⟨-, hnodup, -⟩ := Cfg.legal_escTable h
  exact findIdx?_of_nodup hnodup hi fun _ => decide_eq_true_iff

theorem escapeIndex_of_notMem {pair : Text} (hpair : pair ∉ cfg.escTable) : escapeIndex cfg pair = none :=
  List.findIdx?_eq_none_iff.mpr fun _ he => decide_eq_false fun heq => hpair (heq ▸ he)

/-! ## The head of a text (41_alphabet.md R77) -/

variable (k : Nat)

@[simp] theorem decodeHead_nil : decodeHead cfg k [] = .error .endOfText := rfl

theorem decodeHead_truncatedEscape : decodeHead cfg k [escMark] = .error .truncatedEscape := rfl

theorem decodeHead_escMark (d : Char) (rest : Text) :
    decodeHead cfg k (escMark :: d :: rest) =
      match escapeIndex cfg [escMark, d] with
      | some i => .ok (BitVec.ofNat 7 (122 + i), 2)
      | none => .error .unknownEscape := rfl

theorem decodeHead_of_ne_escMark {c : Char} (hc : c ≠ escMark) (rest : Text) :
    decodeHead cfg k (c :: rest) =
      match safeIndex cfg c with
      | some j => .ok (BitVec.ofNat 7 ((j + 122 - k) % 122), 1)
      | none => .error .unknownChar :=
  if_neg (mt (sameChar_iff c escMark).mp hc)

/-- A character of SAFE_SET is never `@`, so the head reads it as its place, rotated back. -/
theorem decodeHead_safe (h : cfg.legal = true) {j : Nat} {c : Char} (hj : cfg.safeSet[j]? = some c) (rest : Text) :
    decodeHead cfg k (c :: rest) = .ok (BitVec.ofNat 7 ((j + 122 - k) % 122), 1) := by
  obtain ⟨-, -, hsafe⟩ := Cfg.legal_safeSet h
  obtain ⟨hne, -⟩ := (safeChar_iff c).mp (hsafe c (List.mem_of_getElem? hj))
  rw [decodeHead_of_ne_escMark k hne, safeIndex_of_getElem? h hj]

theorem decodeHead_unknownChar {c : Char} (hne : c ≠ escMark) (hc : c ∉ cfg.safeSet) (rest : Text) :
    decodeHead cfg k (c :: rest) = .error .unknownChar := by
  rw [decodeHead_of_ne_escMark k hne, safeIndex_of_notMem hc]

theorem decodeHead_escape (h : cfg.legal = true) {i : Nat} {pair : Text} (hi : cfg.escTable[i]? = some pair)
    (rest : Text) : decodeHead cfg k (pair ++ rest) = .ok (BitVec.ofNat 7 (122 + i), 2) := by
  obtain ⟨-, -, hpairs⟩ := Cfg.legal_escTable h
  obtain ⟨d, rfl, -⟩ := (escapePair_iff pair).mp (hpairs pair (List.mem_of_getElem? hi))
  exact (decodeHead_escMark k d rest).trans (by rw [escapeIndex_of_getElem? h hi])

theorem decodeHead_unknownEscape {d : Char} (hpair : [escMark, d] ∉ cfg.escTable) (rest : Text) :
    decodeHead cfg k (escMark :: d :: rest) = .error .unknownEscape := by
  rw [decodeHead_escMark, escapeIndex_of_notMem hpair]

end

/-! ## DECSYM (41_alphabet.md R77) -/

section
variable {s : State} {shift : BitVec 4}

theorem exec_decsym (hlegal : s.cfg.legal = true) (hshift : shift.toNat ≤ 9) :
    exec (.decsym shift) s =
      .next { s with
        out := match decodeHead s.cfg shift.toNat (s.port.t.drop s.port.p) with
          | .ok r => .ok (.symbol r.1 r.2)
          | .error reason => .err (.alphabetError none s.port.p reason) } := by
  refine (datapath_shift_ok _ hlegal hshift).trans ?_
  simp only [decodeSymbol]
  cases decodeHead s.cfg shift.toNat (s.port.t.drop s.port.p) with
  | ok r => exact datapath_ok hlegal _
  | error reason => exact datapath_error hlegal _

theorem exec_decsym_ok (hlegal : s.cfg.legal = true) (hshift : shift.toNat ≤ 9) {x : Sym} {n : Nat}
    (h : decodeHead s.cfg shift.toNat (s.port.t.drop s.port.p) = .ok (x, n)) :
    exec (.decsym shift) s = .next { s with out := .ok (.symbol x n) } := by
  rw [exec_decsym hlegal hshift, h]

theorem exec_decsym_error (hlegal : s.cfg.legal = true) (hshift : shift.toNat ≤ 9) {reason : AlphabetReason}
    (h : decodeHead s.cfg shift.toNat (s.port.t.drop s.port.p) = .error reason) :
    exec (.decsym shift) s = .next { s with out := .err (.alphabetError none s.port.p reason) } := by
  rw [exec_decsym hlegal hshift, h]

end

theorem drop_of_getElem? {t : Text} {p : Nat} {c : Char} (h : t[p]? = some c) : t.drop p = c :: t.drop (p + 1) := by
  obtain ⟨hlt, rfl⟩ := List.getElem?_eq_some_iff.mp h
  exact List.drop_eq_getElem_cons hlt

/-- Settles O15: what DECSYM answers is what the head of the text at the cursor reads as. -/
theorem decsymResult : Obligations.DecsymResult := by
  intro s shift hlegal hshift
  refine ⟨fun j c hj hc => ?safe, fun i pair hi hpair => ?escape, fun hend => ?endOfText, fun hc hlast => ?truncated,
    fun hc hmore hpair => ?unknownEscape, fun c hc hne hunsafe => ?unknownChar⟩
  case safe =>
    refine exec_decsym_ok hlegal hshift ?_
    rw [drop_of_getElem? hc, decodeHead_safe _ hlegal hj]
  case escape =>
    refine exec_decsym_ok hlegal hshift ?_
    rw [← List.take_append_drop 2 (s.port.t.drop s.port.p), hpair, decodeHead_escape _ hlegal hi]
  case endOfText =>
    refine exec_decsym_error hlegal hshift ?_
    rw [List.drop_eq_nil_of_le hend, decodeHead_nil]
  case truncated =>
    refine exec_decsym_error hlegal hshift ?_
    rw [drop_of_getElem? hc, List.drop_eq_nil_of_le hlast.le]
    exact decodeHead_truncatedEscape _
  case unknownEscape =>
    have htext : s.port.t.drop s.port.p = escMark :: s.port.t[s.port.p + 1] :: s.port.t.drop (s.port.p + 2) := by
      rw [drop_of_getElem? hc, List.drop_eq_getElem_cons hmore]
      rfl
    rw [htext] at hpair
    refine exec_decsym_error hlegal hshift ?_
    rw [htext, decodeHead_unknownEscape _ hpair]
  case unknownChar =>
    refine exec_decsym_error hlegal hshift ?_
    rw [drop_of_getElem? hc, decodeHead_unknownChar _ hne hunsafe]

/-! ## Reading back one symbol (41_alphabet.md R80, R82) -/

/-- What a symbol written at shift kEnc is read as at shift kDec: a one-character symbol moves by the difference of the
shifts, an escape symbol stays (41_alphabet.md R82). -/
def readAt (kEnc kDec : Nat) (x : Sym) : Sym :=
  if x.toNat ≤ 121 then BitVec.ofNat 7 ((x.toNat + 122 + kEnc - kDec) % 122) else x

theorem readAt_same (k : Nat) (x : Sym) : readAt k k x = x := by
  rw [readAt]
  split
  · next hx =>
    rw [Nat.add_sub_cancel, Nat.add_mod_right, Nat.mod_eq_of_lt (Nat.lt_succ_of_le hx), BitVec.ofNat_toNat,
      BitVec.setWidth_eq]
  · rfl

/-- The two rotations of a one-character symbol, one after the other (41_alphabet.md R82). -/
theorem rotate_back (x : Nat) {kEnc kDec : Nat} (h : kDec ≤ 122) :
    ((x + kEnc) % 122 + 122 - kDec) % 122 = (x + 122 + kEnc - kDec) % 122 := by
  omega

theorem decodeHead_encodeSymbol {cfg : Cfg} (h : cfg.legal = true) (x : Sym) (kEnc : Nat) {kDec : Nat} (hk : kDec ≤ 9)
    (rest : Text) :
    decodeHead cfg kDec (encodeSymbol cfg x kEnc ++ rest) =
      .ok (readAt kEnc kDec x, (encodeSymbol cfg x kEnc).length) := by
  by_cases hx : x.toNat ≤ 121
  · have hplace : (x.toNat + kEnc) % 122 < 122 := Nat.mod_lt _ (by decide)
    rw [encodeSymbol_safe cfg kEnc hx, List.singleton_append, decodeHead_safe kDec h (safeSet_getElem? h hplace),
      rotate_back _ (by omega), readAt, if_pos hx, List.length_singleton]
  · obtain ⟨hentry, hlen⟩ := encodeSymbol_pair h kEnc (Nat.lt_of_not_le hx)
    rw [decodeHead_escape kDec h hentry, hlen, readAt, if_neg hx, Nat.add_sub_cancel' (Nat.lt_of_not_le hx),
      BitVec.ofNat_toNat, BitVec.setWidth_eq]

theorem exec_encsym {s : State} (hlegal : s.cfg.legal = true) (x : Sym) {shift : BitVec 4} (hshift : shift.toNat ≤ 9) :
    exec (.encsym x shift) s = .next { s with out := .ok (.text (encodeSymbol s.cfg x shift.toNat)) } :=
  (datapath_shift_ok _ hlegal hshift).trans (datapath_ok hlegal _)

/-- Settles O17: the text ENCSYM answers is the symbol's, and at the same shift its head reads as the symbol. -/
theorem symbolRoundTrip : Obligations.SymbolRoundTrip := by
  intro s t r x shift text hlegal hshift henc hout hcfg htext hcursor
  rw [exec_encsym hlegal x hshift] at henc
  obtain rfl := Host.Outcome.next.inj henc
  obtain rfl : encodeSymbol s.cfg x shift.toNat = text := by simpa using hout
  have hread := decodeHead_encodeSymbol hlegal x shift.toNat hshift []
  rw [List.append_nil, readAt_same] at hread
  refine exec_decsym_ok (hcfg ▸ hlegal) hshift ?_
  rwa [hcfg, htext, hcursor, List.drop_zero]

/-! ## DECSTR (41_alphabet.md R79, R81, R82) -/

section
variable {cfg : Cfg} (k : Nat)

@[simp] theorem decodeLoop_nil (fuel p : Nat) : decodeLoop cfg k fuel p [] = .ok [] := by
  cases fuel <;> rfl

theorem decodeLoop_of_error {t : Text} {reason : AlphabetReason} (ht : t ≠ [])
    (h : decodeHead cfg k t = .error reason) (fuel p : Nat) :
    decodeLoop cfg k (fuel + 1) p t = .error (p, reason) := by
  simp [decodeLoop, ht, h]

theorem decodeLoop_of_ok {t : Text} {x : Sym} {n : Nat} (ht : t ≠ []) (h : decodeHead cfg k t = .ok (x, n))
    (fuel p : Nat) :
    decodeLoop cfg k (fuel + 1) p t = (x :: ·) <$> decodeLoop cfg k fuel (p + n) (t.drop n) := by
  simp only [decodeLoop, if_neg ht, h]
  cases decodeLoop cfg k fuel (p + n) (t.drop n) <;> rfl

end

/-- The loop reads the text of a symbol sequence one symbol a turn and then goes on with the text behind it. -/
theorem decodeLoop_encodeText {cfg : Cfg} (h : cfg.legal = true) (kEnc : Nat) {kDec : Nat} (hk : kDec ≤ 9) (fuel : Nat)
    (rest : Text) (ss : List Sym) (p : Nat) :
    decodeLoop cfg kDec (fuel + ss.length) p (encodeText cfg ss kEnc ++ rest) =
      (ss.map (readAt kEnc kDec) ++ ·) <$> decodeLoop cfg kDec fuel (p + (encodeText cfg ss kEnc).length) rest := by
  induction ss generalizing p with
  | nil => exact (id_map' _).symm
  | cons x xs ih =>
    have hne : encodeSymbol cfg x kEnc ++ (encodeText cfg xs kEnc ++ rest) ≠ [] :=
      List.append_ne_nil_of_left_ne_nil (encodeSymbol_ne_nil h x kEnc) _
    rw [encodeText_cons, List.append_assoc, List.length_cons, ← Nat.add_assoc,
      decodeLoop_of_ok kDec hne (decodeHead_encodeSymbol h x kEnc hk _), List.drop_left, ih, List.length_append,
      Nat.add_assoc p, Functor.map_map]
    rfl

/-- DECSTR of the text of a symbol sequence followed by a rest reads the symbols and then the rest, its fuel enough for
both. -/
theorem decodeText_encodeText_append {cfg : Cfg} (h : cfg.legal = true) (ss : List Sym) (kEnc : Nat) {kDec : Nat}
    (hk : kDec ≤ 9) (rest : Text) :
    ∃ extra, decodeText cfg (encodeText cfg ss kEnc ++ rest) kDec =
      (ss.map (readAt kEnc kDec) ++ ·) <$>
        decodeLoop cfg kDec (extra + rest.length) (encodeText cfg ss kEnc).length rest := by
  obtain ⟨extra, hextra⟩ : ∃ extra, (encodeText cfg ss kEnc).length = extra + ss.length :=
    ⟨_, (encodeText_length h ss kEnc).trans (Nat.add_comm _ _)⟩
  refine ⟨extra, ?_⟩
  have hfuel : (encodeText cfg ss kEnc ++ rest).length = extra + rest.length + ss.length := by
    rw [List.length_append, hextra]
    omega
  rw [decodeText, hfuel, decodeLoop_encodeText h kEnc hk, Nat.zero_add]

theorem decodeText_encodeText {cfg : Cfg} (h : cfg.legal = true) (ss : List Sym) (kEnc : Nat) {kDec : Nat}
    (hk : kDec ≤ 9) :
    decodeText cfg (encodeText cfg ss kEnc) kDec = .ok (ss.map (readAt kEnc kDec)) := by
  obtain ⟨extra, hread⟩ := decodeText_encodeText_append h ss kEnc hk []
  rw [List.append_nil, decodeLoop_nil] at hread
  exact hread.trans (congrArg Except.ok (List.append_nil _))

theorem decodeText_of_head_error {cfg : Cfg} (h : cfg.legal = true) (ss : List Sym) (kEnc : Nat) {kDec : Nat}
    (hk : kDec ≤ 9) {rest : Text} {reason : AlphabetReason} (hne : rest ≠ [])
    (hhead : decodeHead cfg kDec rest = .error reason) :
    decodeText cfg (encodeText cfg ss kEnc ++ rest) kDec = .error ((encodeText cfg ss kEnc).length, reason) := by
  obtain ⟨extra, hread⟩ := decodeText_encodeText_append h ss kEnc hk rest
  obtain ⟨n, hn⟩ := Nat.exists_eq_add_one_of_ne_zero (mt List.length_eq_zero_iff.mp hne)
  rw [hread, hn, ← Nat.add_assoc, decodeLoop_of_error kDec hne hhead]
  rfl

theorem exec_decstr {s : State} (hlegal : s.cfg.legal = true) {shift : BitVec 4} (hshift : shift.toNat ≤ 9) :
    exec (.decstr shift) s =
      .next { s with
        out := match decodeText s.cfg s.port.t shift.toNat with
          | .ok ss => .ok (.symbols ss)
          | .error (p, reason) => .err (.alphabetError none p reason) } := by
  refine (datapath_shift_ok _ hlegal hshift).trans ?_
  cases decodeText s.cfg s.port.t shift.toNat with
  | ok ss => exact datapath_ok hlegal _
  | error e => exact datapath_error hlegal _

/-- Settles O18: DECSTR reads each symbol of the text as `readAt` says, which at the same shift is the symbol itself. -/
theorem textRoundTrip : Obligations.TextRoundTrip := by
  intro s ss kEnc shift hlegal _ hshift htext
  have hread : exec (.decstr shift) s =
      .next { s with out := .ok (.symbols (ss.map (readAt kEnc shift.toNat))) } := by
    rw [exec_decstr hlegal hshift, htext, decodeText_encodeText hlegal ss kEnc hshift]
  refine ⟨hread, fun hsame => ?_⟩
  have hid : ss.map (readAt kEnc shift.toNat) = ss := by
    rw [hsame]
    exact (List.map_congr_left fun x _ => readAt_same kEnc x).trans (List.map_id ss)
  rwa [hid] at hread

/-- Settles O19: the loop takes the symbols of the part before and stops at the head of the rest. -/
theorem decstrFirstError : Obligations.DecstrFirstError := by
  intro s ss shift rest reason hlegal hshift htext hne hhead
  rw [exec_decstr hlegal hshift, htext, decodeText_of_head_error hlegal ss _ hshift hne hhead]

end Sys2Proof.Machine
end

section
/-! PROOFS. QUANT, DEQUANT and QFIELD (spec/42_quantizer.md R83, R85, R86). -/

namespace Sys2Proof

@[simp] theorem F64.isFinite_fin (neg : Bool) (m : Fin f64InfCode) : (F64.fin neg m).isFinite = true := rfl

@[simp] theorem F64.isFinite_inf (neg : Bool) : (F64.inf neg).isFinite = false := rfl

@[simp] theorem F64.isFinite_nan : F64.nan.isFinite = false := rfl

end Sys2Proof

namespace Sys2Proof.Machine

/-! ## One vector (42_quantizer.md R83) -/

theorem magnitudeBucket_toNat (n : Int) : ((magnitudeBucket n).toNat : Int) = clip n 0 15 := by
  have hlow : 0 ≤ clip n 0 15 := le_min (le_max_right n 0) (by decide)
  have hhigh : clip n 0 15 ≤ 15 := min_le_right _ _
  rw [magnitudeBucket, BitVec.toNat_ofNat, Nat.mod_eq_of_lt (by omega), Int.toNat_of_nonneg hlow]

theorem directionBucket_toNat (n : Int) : ((directionBucket n).toNat : Int) = (n + 16) % 16 := by
  rw [directionBucket, BitVec.toNat_ofNat]
  omega

section
variable {cfg : Cfg} {u v : F64}

theorem quantize_of_fin {sq sa : Bool} {mq ma : Fin f64InfCode} (hu : u.isFinite = true) (hv : v.isFinite = true)
    (hq : magnitudeQuotient cfg u v = .fin sq mq) (ha : directionQuotient cfg u v = .fin sa ma) :
    quantize cfg u v =
      some (magnitudeBucket (roundI cfg.roundTies sq mq.val), directionBucket (roundI cfg.roundTies sa ma.val)) := by
  simp only [quantize, hu, hv, hq, ha, Bool.and_self, if_true]

/-- A vector fails to quantize exactly where a component or a quotient is not finite. -/
theorem quantize_eq_none_iff :
    quantize cfg u v = none ↔
      u.isFinite = false ∨ v.isFinite = false ∨ (magnitudeQuotient cfg u v).isFinite = false ∨
        (directionQuotient cfg u v).isFinite = false := by
  by_cases hfinite : u.isFinite = true ∧ v.isFinite = true
  · obtain ⟨hu, hv⟩ := hfinite
    cases hq : magnitudeQuotient cfg u v with
    | fin sq mq =>
      cases ha : directionQuotient cfg u v with
      | fin sa ma => simp [quantize_of_fin hu hv hq ha, hu, hv]
      | inf _ | nan => simp [quantize, hq, ha]
    | inf _ | nan => simp [quantize, hq]
  · have hnone : quantize cfg u v = none := if_neg (by simpa using hfinite)
    rw [not_and_or, Bool.not_eq_true, Bool.not_eq_true] at hfinite
    exact iff_of_true hnone (hfinite.imp_right .inl)

end

section
variable {s : State} (hlegal : s.cfg.legal = true)
include hlegal

theorem exec_quant_some {mag dir : Nib} (h : quantize s.cfg s.port.u s.port.v = some (mag, dir)) :
    exec .quant s = .next { s with out := .ok (.sample mag dir) } := by
  change execQuant s = _
  rw [execQuant, h]
  exact datapath_ok hlegal _

theorem exec_quant_none (h : quantize s.cfg s.port.u s.port.v = none) :
    exec .quant s = .next { s with out := .err (.invalidSample none s.port.u s.port.v) } := by
  change execQuant s = _
  rw [execQuant, h]
  exact datapath_error hlegal _

end

/-- Settles O20: QUANT answers the buckets of the two rounded quotients where all four values are finite, and where one is not
`quantize` has no answer. -/
theorem quantResult : Obligations.QuantResult := by
  intro s hlegal
  refine ⟨fun sq sa mq ma hu hv hq ha => ?_, fun hnot => exec_quant_none hlegal (quantize_eq_none_iff.mpr hnot)⟩
  exact ⟨_, _, exec_quant_some hlegal (quantize_of_fin hu hv hq ha), magnitudeBucket_toNat _, directionBucket_toNat _⟩

/-! ## DEQUANT (42_quantizer.md R85) -/

theorem exec_dequant {s : State} (hlegal : s.cfg.legal = true) (mag dir : Nib) :
    exec (.dequant mag dir) s =
      .next { s with out := .ok (.vector (dequantize s.cfg mag dir).1 (dequantize s.cfg mag dir).2) } :=
  datapath_ok hlegal _

/-- Settles O23: `dequantize` evaluates in the order of R85, and DEQUANT puts its two components on the result port. -/
theorem dequantResult : Obligations.DequantResult := by
  intro s mag dir hlegal
  rw [exec_dequant hlegal, dequantize]

/-! ## The cells of a field (42_quantizer.md R86) -/

section
variable {cfg : Cfg} {u v : F64}

theorem quantizeCells_cons_none (h : quantize cfg u v = none) (c : Nat) (cells : List (F64 × F64)) :
    quantizeCells cfg c ((u, v) :: cells) = .error (.invalidSample (some c) u v) := by
  rw [quantizeCells, h]

theorem quantizeCells_cons_some {q : Sample} (h : quantize cfg u v = some q) (c : Nat) (cells : List (F64 × F64)) :
    quantizeCells cfg c ((u, v) :: cells) = (q :: ·) <$> quantizeCells cfg (c + 1) cells := by
  rw [quantizeCells, h]
  cases quantizeCells cfg (c + 1) cells <;> rfl

end

/-- The cells have the samples `S` exactly where each has the sample of `S` in its place. -/
theorem quantizeCells_eq_ok_iff {cfg : Cfg} {c : Nat} {cells : List (F64 × F64)} {S : List Sample} :
    quantizeCells cfg c cells = .ok S ↔ cells.map (fun cell => quantize cfg cell.1 cell.2) = S.map some := by
  induction cells generalizing c S with
  | nil => cases S <;> simp [quantizeCells]
  | cons cell cells ih =>
    obtain ⟨u, v⟩ := cell
    cases hcell : quantize cfg u v with
    | none => cases S <;> simp [quantizeCells_cons_none hcell, hcell]
    | some q =>
      rw [quantizeCells_cons_some hcell]
      cases S with
      | nil => cases quantizeCells cfg (c + 1) cells <;> simp
      | cons x xs =>
        rw [List.map_cons, List.map_cons, List.cons.injEq, ← ih (c := c + 1), hcell]
        cases quantizeCells cfg (c + 1) cells <;> simp

/-- The error of the cells is that of the first that does not quantize. -/
theorem quantizeCells_first_none {cfg : Cfg} {u v : F64} (hnone : quantize cfg u v = none) {cells : List (F64 × F64)}
    {i : Nat} (hcell : cells[i]? = some (u, v))
    (hbefore : ∀ j x y, j < i → cells[j]? = some (x, y) → quantize cfg x y ≠ none) (c : Nat) :
    quantizeCells cfg c cells = .error (.invalidSample (some (c + i)) u v) := by
  induction cells generalizing i c with
  | nil => simp at hcell
  | cons cell cells ih =>
    cases i with
    | zero =>
      obtain rfl : cell = (u, v) := by simpa using hcell
      exact quantizeCells_cons_none hnone c cells
    | succ i =>
      obtain ⟨q, hq⟩ := Option.ne_none_iff_exists'.mp (hbefore 0 cell.1 cell.2 i.succ_pos rfl)
      have hrest := ih hcell (fun j x y hj => hbefore (j + 1) x y (Nat.succ_lt_succ hj)) (c + 1)
      rw [quantizeCells_cons_some hq, hrest, Nat.add_right_comm, Nat.add_assoc]
      rfl

section
variable (cfg : Cfg) {F : WindField}

/-- A field with N vectors is quantized cell by cell. -/
theorem quantizeField_of_length (hu : F.u.length = fieldCells F) (hv : F.v.length = fieldCells F) :
    quantizeField cfg F = quantizeCells cfg 0 (F.u.zip F.v) := if_pos ⟨hu, hv⟩

theorem quantizeField_of_length_ne (h : F.u.length ≠ fieldCells F ∨ F.v.length ≠ fieldCells F) :
    quantizeField cfg F = .error (.invalidField .cellCount) := if_neg (not_and_or.mpr h)

end

/-! ## QFIELD (42_quantizer.md R86) -/

section
variable {s : State} {F : WindField}

theorem exec_qfield (hport : s.port.F = FieldOperand.of F) :
    exec .qfield s = datapath s (Value.samples <$> quantizeField s.cfg F) := by
  change execQfield s = _
  rw [execQfield, hport, map_eq_pure_bind]
  rfl

theorem exec_qfield_ok (hlegal : s.cfg.legal = true) (hport : s.port.F = FieldOperand.of F) {S : List Sample}
    (h : quantizeField s.cfg F = .ok S) : exec .qfield s = .next { s with out := .ok (.samples S) } := by
  rw [exec_qfield hport, h]
  exact datapath_ok hlegal _

theorem exec_qfield_error (hlegal : s.cfg.legal = true) (hport : s.port.F = FieldOperand.of F) {e : Err}
    (h : quantizeField s.cfg F = .error e) : exec .qfield s = .next { s with out := .err e } := by
  rw [exec_qfield hport, h]
  exact datapath_error hlegal _

end

/-- Settles O24: QFIELD answers what `quantizeField` does, and a cell of the field is one of each component at the same place. -/
theorem qfieldResult : Obligations.QfieldResult := by
  intro s F hlegal hport
  refine ⟨fun S hS hu hv hcells => exec_qfield_ok hlegal hport ?_,
    fun hcount => exec_qfield_error hlegal hport (quantizeField_of_length_ne s.cfg hcount),
    fun c u v hu hv hcu hcv hnone hbefore => exec_qfield_error hlegal hport ?_⟩
  · rw [quantizeField_of_length s.cfg hu hv, quantizeCells_eq_ok_iff]
    refine List.ext_getElem (by simp [hS, hu, hv]) fun i _ hi => ?_
    rw [List.length_map] at hi
    simpa [hi] using hcells i _ _ (List.getElem?_eq_getElem (by omega)) (List.getElem?_eq_getElem (by omega))
  · have hcell := List.getElem?_zip_eq_some (z := (u, v)).mpr ⟨hcu, hcv⟩
    have hfirst : ∀ d x y, d < c → (F.u.zip F.v)[d]? = some (x, y) → quantize s.cfg x y ≠ none := fun d x y hd hxy =>
      have ⟨hx, hy⟩ := List.getElem?_zip_eq_some.mp hxy
      hbefore d x y hd hx hy
    rw [quantizeField_of_length s.cfg hu hv, quantizeCells_first_none hnone hcell hfirst, Nat.zero_add]

end Sys2Proof.Machine
end

section
/-! PROOFS. SYMBITS, SPLIT and UNPACK bit by bit, and the bit-packer's round trip (spec/43_bitpacker.md R93 to R98). -/

namespace Sys2Proof.Machine

/-! ## A value and its bits (00_scope.md R15) -/

/-- Bit t from the most significant end, counted from the least significant one. -/
theorem getMsbD_eq_getLsbD {w : Nat} (x : BitVec w) {t : Nat} (ht : t < w) : x.getMsbD t = x.getLsbD (w - 1 - t) := by
  rw [BitVec.getMsbD, decide_eq_true ht, Bool.true_and]

theorem ofNat_valBits_bitsMsb {w : Nat} (x : BitVec w) : BitVec.ofNat w (valBits (bitsMsb x)) = x := by
  rw [valBits_bitsMsb, BitVec.ofNat_toNat, BitVec.setWidth_eq]

theorem bitsMsb_ofNat_valBits {w : Nat} {b : Bits} (hb : b.length = w) : bitsMsb (BitVec.ofNat w (valBits b)) = b := by
  subst hb
  refine List.ext_getElem (bitsMsb_length _) fun i _ hi => ?_
  have hplace : b.length - 1 - (b.length - 1 - i) = i := by omega
  have hbit : (bitsMsb (BitVec.ofNat b.length (valBits b)))[i]? = some b[i] := by
    rw [bitsMsb_getElem? _ hi, getMsbD_eq_getLsbD _ hi, BitVec.getLsbD_ofNat, valBits_testBit, hplace,
      List.getD_eq_getElem _ _ hi, decide_eq_true (by omega : b.length - 1 - i < b.length), Bool.true_and, Bool.true_and]
  exact (List.getElem?_eq_some_iff.mp hbit).2

/-! ## SYMBITS (43_bitpacker.md R93) -/

/-- Settles O27: SYMBITS lays its symbols out one after another, seven bits each. -/
theorem symbitsLayout : Obligations.SymbitsLayout := by
  intro s ss hlegal hport
  refine ⟨symbolBits ss, ?_, symbolBits_length ss, fun j x t hx ht => ?_⟩
  · rw [exec, execSymbits, hport, symbolsOf_map_toNat]
    exact datapath_ok hlegal _
  · rw [← getMsbD_eq_getLsbD x ht]
    exact flatMap_bitsMsb_getElem? id hx ht

/-- SYMBITS after GROUP gives the string back with its last window filled up with zeros (43_bitpacker.md R96). -/
theorem symbolBits_groupBits (b : Bits) :
    symbolBits (groupBits b) = b ++ List.replicate (7 * ((b.length + 6) / 7) - b.length) false := by
  induction hn : b.length using Nat.strong_induction_on generalizing b with
  | _ n ih =>
    subst hn
    by_cases hb : b = []
    · subst hb; rfl
    · have hpos := List.length_pos_of_ne_nil hb
      have hwindow : (padWindow (b.take 7)).length = 7 := by simp [padWindow]
      have hdrop : (b.drop 7).length = b.length - 7 := List.length_drop
      rw [groupBits_step hb, symbolBits_cons, bitsMsb_ofNat_valBits hwindow, ih _ (by omega) _ rfl, hdrop, padWindow]
      by_cases hfull : 7 ≤ b.length
      · have hfill : 7 * ((b.length - 7 + 6) / 7) - (b.length - 7) = 7 * ((b.length + 6) / 7) - b.length := by omega
        rw [List.length_take_of_le hfull, Nat.sub_self, List.replicate_zero, List.append_nil, ← List.append_assoc,
          List.take_append_drop, hfill]
      · have hfill : 7 * ((b.length - 7 + 6) / 7) - (b.length - 7) = 0 := by omega
        have hlast : 7 * ((b.length + 6) / 7) - b.length = 7 - b.length := by omega
        rw [List.take_of_length_le (by omega), List.drop_of_length_le (by omega), hfill, hlast, List.replicate_zero,
          List.append_nil, List.append_nil]

/-! ## SPLIT (43_bitpacker.md R94) -/

/-- SPLIT's nibbles laid out one after another are the string, but for a last group shorter than 4 bits. -/
theorem exists_flatMap_splitBits_append (b : Bits) :
    ∃ rest : Bits, rest.length < 4 ∧ ((splitBits b).flatMap fun x => bitsMsb x) ++ rest = b := by
  induction hn : b.length using Nat.strong_induction_on generalizing b with
  | _ n ih =>
    by_cases hshort : b.length < 4
    · exact ⟨b, hshort, by rw [splitBits_short hshort]; rfl⟩
    · have hwhole : 4 ≤ b.length := by omega
      obtain ⟨rest, hrest, hdrop⟩ := ih (b.drop 4).length (by rw [List.length_drop]; omega) _ rfl
      refine ⟨rest, hrest, ?_⟩
      rw [splitBits_step hwhole, List.flatMap_cons, bitsMsb_ofNat_valBits (List.length_take_of_le hwhole),
        List.append_assoc, hdrop, List.take_append_drop]

theorem splitBits_length (b : Bits) : (splitBits b).length = b.length / 4 := by
  obtain ⟨rest, hrest, hb⟩ := exists_flatMap_splitBits_append b
  have hlen := congrArg List.length hb
  rw [List.length_append, flatMap_bitsMsb_length fun x : Nib => x] at hlen
  omega

theorem splitBits_getLsbD {b : Bits} {i : Nat} {x : Nib} (hx : (splitBits b)[i]? = some x) {t : Nat} (ht : t < 4) :
    b[4 * i + t]? = some (x.getLsbD (3 - t)) := by
  obtain ⟨rest, -, hb⟩ := exists_flatMap_splitBits_append b
  have hbit := flatMap_bitsMsb_getElem? (fun x : Nib => x) hx ht
  rw [← getMsbD_eq_getLsbD x ht, ← hbit]
  conv_lhs => rw [← hb]
  exact List.getElem?_append_left (List.getElem?_eq_some_iff.mp hbit).1

/-- Settles O28: SPLIT answers one nibble for each whole group of four bits. -/
theorem splitLayout : Obligations.SplitLayout := by
  intro s b hlegal hport
  refine ⟨splitBits b, ?_, splitBits_length b, fun i x t hx ht => splitBits_getLsbD hx ht⟩
  rw [exec, execSplit, hport, bitsOf_map_toNat]
  exact datapath_ok hlegal _

/-- Nibbles laid out one after another are what SPLIT finds, whatever follows them. -/
theorem splitBits_flatMap_append (xs : List Nib) (rest : Bits) :
    splitBits ((xs.flatMap fun x => bitsMsb x) ++ rest) = xs ++ splitBits rest := by
  induction xs with
  | nil => rfl
  | cons x xs ih =>
    have hlen : (bitsMsb x).length = 4 := bitsMsb_length x
    rw [List.flatMap_cons, List.append_assoc, splitBits_step (by rw [List.length_append]; omega), List.take_left' hlen,
      List.drop_left' hlen, ofNat_valBits_bitsMsb, ih, List.cons_append]

/-! ## UNPACK (43_bitpacker.md R95) -/

theorem nibblesOf_map_toNat (name : OperandName) (nb : List Nib) : nibblesOf name (nb.map BitVec.toNat) = .ok nb := by
  have hrange : (nb.map BitVec.toNat).all (fun n => decide (n < 16)) = true := by
    simpa using fun x _ => x.isLt
  simp [nibblesOf, hrange, Function.comp_def]

section
variable {nb : List Nib} {N : Nat}

theorem unpackNibbles_ok (h : nb.length = 2 * N ∨ nb.length = 2 * N + 1) :
    unpackNibbles nb N = .ok ((nb.take N).zip ((nb.drop N).take N)) := if_pos h

theorem unpackNibbles_error (heven : nb.length ≠ 2 * N) (hodd : nb.length ≠ 2 * N + 1) :
    unpackNibbles nb N = .error (.gridSizeMismatch nb.length N) := if_neg (not_or.mpr ⟨heven, hodd⟩)

end

theorem exec_unpack {s : State} {nb : List Nib} (hport : s.port.nb = nb.map BitVec.toNat) :
    exec .unpack s = datapath s (unpackNibbles nb s.port.N >>= fun S => pure (.samples S)) := by
  rw [exec, execUnpack, hport, nibblesOf_map_toNat]
  rfl

/-- Settles O29: UNPACK answers the two halves side by side, and reads the count before it pairs them. -/
theorem unpackResult : Obligations.UnpackResult := by
  intro s nb hlegal hport
  refine ⟨fun hcount => ⟨(nb.take s.port.N).zip ((nb.drop s.port.N).take s.port.N), ?_, ?_, fun c x y hc hx hy => ?_⟩,
    fun heven hodd => ?_⟩
  · rw [exec_unpack hport, unpackNibbles_ok hcount]
    exact datapath_ok hlegal _
  · rw [List.length_zip, List.length_take, List.length_take, List.length_drop]
    omega
  · refine List.getElem?_zip_eq_some.mpr ⟨?_, ?_⟩
    · rw [List.getElem?_take_of_lt hc, hx]
    · rw [List.getElem?_take_of_lt hc, List.getElem?_drop, hy]
  · rw [exec_unpack hport, unpackNibbles_error heven hodd]
    exact datapath_error hlegal _

/-- The magnitudes and then the directions of S are unpacked to S, with or without a spare nibble after them. -/
theorem unpackNibbles_samples (S : List Sample) {spare : List Nib} (hspare : spare.length ≤ 1) :
    unpackNibbles ((S.map Prod.fst ++ S.map Prod.snd) ++ spare) S.length = .ok S := by
  have hcount : ((S.map Prod.fst ++ S.map Prod.snd) ++ spare).length = 2 * S.length + spare.length := by
    rw [List.length_append, List.length_append, List.length_map, List.length_map, Nat.two_mul]
  rw [unpackNibbles_ok (by omega), List.append_assoc, List.take_left' (List.length_map _),
    List.drop_left' (List.length_map _), List.take_left' (List.length_map _), ← List.zip_of_prod rfl rfl]

/-! ## The round trip (43_bitpacker.md R96 to R98) -/

theorem packSamples_eq_flatMap (S : List Sample) :
    packSamples S = (S.map Prod.fst ++ S.map Prod.snd).flatMap fun x => bitsMsb x := by
  rw [packSamples, List.flatMap_append, List.flatMap_map, List.flatMap_map]

/-- The symbols of N samples hold 8N bits and the padding of 43_bitpacker.md R96. -/
theorem seven_mul_symbolCount (N : Nat) : 7 * ((8 * N + 6) / 7) = 8 * N + (7 - N % 7) % 7 := by omega

/-- Settles O30: the way back finds the nibbles PACK laid out (`symbolBits_groupBits`, `splitBits_flatMap_append`), and the fewer
than 7 bits of padding after them are at most one spare nibble. -/
theorem packedSamplesSurvive : Obligations.PackedSamplesSurvive := by
  intro S
  have hlen := packSamples_length S
  refine ⟨?_, ?_, ?_⟩
  · have hspare : (splitBits (List.replicate ((7 - S.length % 7) % 7) false)).length ≤ 1 := by
      rw [splitBits_length, List.length_replicate]
      omega
    rw [symbolBits_groupBits, hlen, seven_mul_symbolCount, Nat.add_sub_cancel_left, packSamples_eq_flatMap,
      splitBits_flatMap_append]
    exact unpackNibbles_samples S hspare
  · rw [groupBits_length, hlen]
  · rw [splitBits_length, symbolBits_length, groupBits_length, hlen, seven_mul_symbolCount]
    simp only [List.mem_cons, List.not_mem_nil, or_false]
    split <;> omega

end Sys2Proof.Machine
end

section
/-! PROOFS. HDRFMT and FRAG (spec/44_framer.md R100 to R106). -/

namespace Sys2Proof.Machine

/-! ## HDRFMT (44_framer.md R100) -/

/-- The header's metadata lines are its five lines, each with its `NL` (30_encoding.md R68). -/
theorem headerLines_eq_joinTexts (m : HeaderMeta) (k : Nat) :
    headerLines m k =
      joinTexts [nl]
        [joinTexts [','] (m.hours.map dec), dateTimeLine m.base,
          joinTexts [','] [floatText m.latmin, floatText m.latmax, floatText m.lonmin, floatText m.lonmax],
          joinTexts [','] [floatText m.latstep, floatText m.lonstep], dec k, []] := by
  simp [headerLines, joinTexts]

theorem realsFinite_iff (m : HeaderMeta) :
    realsFinite m = true ↔
      ∀ x ∈ [m.latmin, m.latmax, m.lonmin, m.lonmax, m.latstep, m.lonstep], x.isFinite = true := by
  simp [realsFinite, and_assoc]

theorem formatHeader_error {m : HeaderMeta} (h : m.hours = [] ∨ realsFinite m = false) (k : Nat) :
    formatHeader m k = .error (.operandRange .metadata) :=
  if_neg fun ⟨hhours, hfinite⟩ => h.elim hhours fun hbad => Bool.false_ne_true (hbad.symm.trans hfinite)

/-- HDRFMT of a whole record at a shift of 0 to 9. -/
theorem exec_hdrfmt {s : State} {m : HeaderMeta} {shift : BitVec 4} (hlegal : s.cfg.legal = true)
    (hshift : shift.toNat ≤ 9) (hport : s.port.metadata = MetaOperand.of m) :
    exec (.hdrfmt shift) s = datapath s (Value.text <$> formatHeader m shift.toNat) := by
  refine (datapath_shift_ok _ hlegal hshift).trans ?_
  rw [hport, map_eq_pure_bind]
  rfl

/-- Settles O31: HDRFMT answers what `formatHeader` does, whose text is the five lines joined. -/
theorem hdrfmtResult : Obligations.HdrfmtResult := by
  intro s m shift hlegal hshift hport
  rw [exec_hdrfmt hlegal hshift hport]
  refine ⟨fun hhours hfinite => ?_, fun hbad => ?_⟩
  · rw [formatHeader_ok hhours ((realsFinite_iff m).mpr hfinite), headerLines_eq_joinTexts]
    exact datapath_ok hlegal _
  · have hreals : (∃ x ∈ [m.latmin, m.latmax, m.lonmin, m.lonmax, m.latstep, m.lonstep], x.isFinite = false) →
        realsFinite m = false := by
      rintro ⟨x, hx, hxbad⟩
      exact Bool.eq_false_iff.mpr fun h => Bool.false_ne_true (hxbad.symm.trans ((realsFinite_iff m).mp h x hx))
    rw [formatHeader_error (hbad.imp_right hreals)]
    exact datapath_error hlegal _

/-! ## The fragment of a record (44_framer.md R101, R102) -/

/-- FRAG answers a fragment exactly when the cursor is within the symbols and, at index 0, the record is one HDRFMT formats; it is
the fragment after its metadata lines. -/
theorem buildFragment_eq_ok_iff {cfg : Cfg} {index k cur : Nat} {ss : List Sym} {record : Except Err HeaderMeta}
    {r : Text × Nat} :
    buildFragment cfg index k ss cur record = .ok r ↔
      cur ≤ ss.length ∧
        ∃ m, (index = 0 → record = .ok m ∧ m.hours ≠ [] ∧ realsFinite m = true) ∧
          fragmentText cfg k (metadataLines index k m) ss cur = r := by
  unfold buildFragment
  by_cases hcur : ss.length < cur
  · simp [hcur]
  rw [if_neg hcur]
  by_cases hindex : index = 0
  · rw [if_pos hindex]
    cases record with
    | error e => simp [hindex, bind, Except.bind]
    | ok m =>
      by_cases hm : m.hours ≠ [] ∧ realsFinite m = true
      · simp [bind, Except.bind, formatHeader_ok hm.1 hm.2, hindex, hm, metadataLines, Nat.not_lt.mp hcur, pure, Except.pure]
      · have hbad : formatHeader m k = .error (.operandRange .metadata) := if_neg hm
        simp [bind, Except.bind, hbad, hindex, hm]
  · simp [hindex, metadataLines, Nat.not_lt.mp hcur]

theorem buildFragment_cursor_error (cfg : Cfg) (index k : Nat) {ss : List Sym} {cur : Nat} (h : ss.length < cur)
    (record : Except Err HeaderMeta) : buildFragment cfg index k ss cur record = .error (.operandRange .cur) := if_pos h

theorem buildFragment_record_error (cfg : Cfg) (k : Nat) {ss : List Sym} {cur : Nat} (hcur : cur ≤ ss.length)
    {m : HeaderMeta} (hm : m.hours = [] ∨ realsFinite m = false) :
    buildFragment cfg 0 k ss cur (.ok m) = .error (.operandRange .metadata) := by
  rw [buildFragment, if_neg (Nat.not_lt.mpr hcur), if_pos rfl]
  simp [bind, Except.bind, formatHeader_error hm]

/-! ## The payload line and the cap (44_framer.md R102, R103) -/

theorem countedBefore_eq (cfg : Cfg) (lines : Text) :
    countedBefore cfg lines = if cfg.capScope = .whole then lines.length else 0 := by
  rw [countedBefore]
  cases cfg.capScope <;> rfl

/-- The fragment's symbols written out: its count says which they are. -/
theorem fragmentText_text (cfg : Cfg) (k : Nat) (lines : Text) (ss : List Sym) (cur : Nat) :
    (fragmentText cfg k lines ss cur).1 =
      lines ++ encodeText cfg ((ss.drop cur).take (fragmentText cfg k lines ss cur).2) k ++ [nl] ++
        if cur + (fragmentText cfg k lines ss cur).2 = ss.length then endToken else [] := by
  obtain ⟨-, htext, -, -⟩ := fillPayload_spec cfg k (ss.drop cur) (countedBefore cfg lines)
  rw [fragmentText_eq, ← htext]

/-- The symbols a fragment takes fit under the cap. -/
theorem fragmentText_fits {cfg : Cfg} (h : cfg.legal = true) (k : Nat) (lines : Text) (ss : List Sym) (cur : Nat)
    (hcount : 0 < (fragmentText cfg k lines ss cur).2) :
    countedBefore cfg lines +
      (encodeText cfg ((ss.drop cur).take (fragmentText cfg k lines ss cur).2) k).length ≤ 120 := by
  obtain ⟨-, htext, hcap, -⟩ := fillPayload_spec cfg k (ss.drop cur) (countedBefore cfg lines)
  have hfits := hcap hcount.ne'
  rwa [htext, Cfg.legal_maxPayload h] at hfits

/-- One symbol more would not fit under the cap. -/
theorem fragmentText_greedy {cfg : Cfg} (h : cfg.legal = true) (k : Nat) (lines : Text) {ss : List Sym} {cur : Nat}
    (hmore : cur + (fragmentText cfg k lines ss cur).2 < ss.length) :
    120 < countedBefore cfg lines +
      (encodeText cfg ((ss.drop cur).take ((fragmentText cfg k lines ss cur).2 + 1)) k).length := by
  obtain ⟨-, -, -, hmax⟩ := fillPayload_spec cfg k (ss.drop cur) (countedBefore cfg lines)
  rw [fragmentText_eq] at hmore ⊢
  have hpast := hmax (by rw [List.length_drop]; omega)
  rwa [Cfg.legal_maxPayload h] at hpast

/-! ## FRAG -/

/-- What FRAG answers at a shift of 0 to 9. -/
def fragAnswer (s : State) (k : Nat) : Except Err Value := do
  let ss ← symbolsOf .ss s.port.ss
  let r ← buildFragment s.cfg s.port.index k ss s.port.cur (metaOf s.port.metadata)
  pure (.fragment r.1 r.2)

section
variable {s : State}

theorem exec_frag {shift : BitVec 4} (hlegal : s.cfg.legal = true) (hshift : shift.toNat ≤ 9) :
    exec (.frag shift) s = datapath s (fragAnswer s shift.toNat) := datapath_shift_ok _ hlegal hshift

theorem fragAnswer_of_ok {ss : List Sym} {k : Nat} {r : Text × Nat} (hss : symbolsOf .ss s.port.ss = .ok ss)
    (h : buildFragment s.cfg s.port.index k ss s.port.cur (metaOf s.port.metadata) = .ok r) :
    fragAnswer s k = .ok (.fragment r.1 r.2) := by
  rw [fragAnswer, hss]
  change Except.bind (buildFragment _ _ _ _ _ _) _ = _
  rw [h]
  rfl

theorem fragAnswer_of_error {ss : List Sym} {k : Nat} {e : Err} (hss : symbolsOf .ss s.port.ss = .ok ss)
    (h : buildFragment s.cfg s.port.index k ss s.port.cur (metaOf s.port.metadata) = .error e) :
    fragAnswer s k = .error e := by
  rw [fragAnswer, hss]
  change Except.bind (buildFragment _ _ _ _ _ _) _ = _
  rw [h]
  rfl

theorem exists_of_fragAnswer_eq_ok {k n : Nat} {text : Text} (h : fragAnswer s k = .ok (.fragment text n)) :
    ∃ ss, symbolsOf .ss s.port.ss = .ok ss ∧
      buildFragment s.cfg s.port.index k ss s.port.cur (metaOf s.port.metadata) = .ok (text, n) := by
  cases hss : symbolsOf .ss s.port.ss with
  | error e =>
    rw [fragAnswer, hss] at h
    cases h
  | ok ss =>
    cases hbuild : buildFragment s.cfg s.port.index k ss s.port.cur (metaOf s.port.metadata) with
    | error e =>
      rw [fragAnswer_of_error hss hbuild] at h
      cases h
    | ok r =>
      rw [fragAnswer_of_ok hss hbuild] at h
      cases h
      exact ⟨ss, rfl, hbuild⟩

end

theorem metaOf_of (m : HeaderMeta) : metaOf (MetaOperand.of m) = .ok m := rfl

/-- Settles O32: FRAG answers the fragment of `fragmentText`, whose count is the greedy one, or the error of its first check. -/
theorem fragResult : Obligations.FragResult := by
  intro s ss m shift hlegal hshift hport
  have hss : symbolsOf .ss s.port.ss = .ok ss := hport ▸ symbolsOf_map_toNat .ss ss
  rw [exec_frag hlegal hshift]
  refine ⟨fun hcur hrecord => ?_, fun hcur => ?_, fun hcur hindex hmeta hbad => ?_⟩
  · have hbuild := buildFragment_eq_ok_iff (cfg := s.cfg) (k := shift.toNat) (record := metaOf s.port.metadata).mpr
      ⟨hcur, m, fun hindex => (hrecord hindex).imp_left fun hmeta => by rw [hmeta, metaOf_of], rfl⟩
    refine ⟨_, (fragmentText s.cfg shift.toNat (metadataLines s.port.index shift.toNat m) ss s.port.cur).2, rfl, ?_,
      fragmentText_range s.cfg shift.toNat _ hcur, fun hcount => ?_, fun hmore => ?_⟩
    · rw [fragAnswer_of_ok hss hbuild, fragmentText_text]
      exact datapath_ok hlegal _
    · exact countedBefore_eq s.cfg _ ▸ fragmentText_fits hlegal _ _ ss _ hcount
    · exact countedBefore_eq s.cfg _ ▸ fragmentText_greedy hlegal _ _ hmore
  · rw [fragAnswer_of_error hss (buildFragment_cursor_error s.cfg _ _ hcur _)]
    exact datapath_error hlegal _
  · rw [fragAnswer_of_error hss (e := .operandRange .metadata)]
    · exact datapath_error hlegal _
    · rw [hindex, hmeta]
      exact buildFragment_record_error s.cfg _ hcur hbad

/-! ## The same range at another shift (44_framer.md R106) -/

theorem dec_length_of_le_nine {k : Nat} (h : k ≤ 9) : (dec k).length = 1 :=
  le_antisymm (dec_length_le Nat.one_pos (by omega)) (List.length_pos_of_ne_nil (dec_ne_nil k))

theorem metadataLines_length_shift (index : Nat) (m : HeaderMeta) {k k' : Nat} (hk : k ≤ 9) (hk' : k' ≤ 9) :
    (metadataLines index k' m).length = (metadataLines index k m).length := by
  rw [metadataLines, metadataLines]
  split <;> simp [headerLines, dataLine, dec_length_of_le_nine, hk, hk']

section
variable {cfg : Cfg} (h : cfg.legal = true)
include h

/-- The greedy fill does not look at the shift: a symbol's text is as long at every shift. -/
theorem fillPayload_shift (k k' : Nat) (ss : List Sym) (used : Nat) :
    (fillPayload cfg k' used ss).2 = (fillPayload cfg k used ss).2 ∧
      (fillPayload cfg k' used ss).1.length = (fillPayload cfg k used ss).1.length := by
  induction ss generalizing used with
  | nil => exact ⟨rfl, rfl⟩
  | cons x xs ih =>
    have hlen : (encodeSymbol cfg x k').length = (encodeSymbol cfg x k).length := by
      rw [encodeSymbol_length h, encodeSymbol_length h]
    obtain ⟨hcount, htext⟩ := ih (used + (encodeSymbol cfg x k).length)
    simp only [fillPayload, hlen]
    split
    · exact ⟨congrArg (· + 1) hcount, by rw [List.length_append, List.length_append, hlen, htext]⟩
    · exact ⟨rfl, rfl⟩

theorem fragmentText_shift (k k' : Nat) {lines lines' : Text} (hlines : lines'.length = lines.length) (ss : List Sym)
    (cur : Nat) :
    (fragmentText cfg k' lines' ss cur).2 = (fragmentText cfg k lines ss cur).2 ∧
      (fragmentText cfg k' lines' ss cur).1.length = (fragmentText cfg k lines ss cur).1.length := by
  have hused : countedBefore cfg lines' = countedBefore cfg lines := by rw [countedBefore_eq, countedBefore_eq, hlines]
  obtain ⟨hcount, htext⟩ := fillPayload_shift h k k' (ss.drop cur) (countedBefore cfg lines)
  rw [fragmentText_eq, fragmentText_eq, hused, hcount]
  exact ⟨rfl, by simp only [List.length_append, hlines, htext]⟩

/-- A fragment at one shift of 0 to 9 has one of the same count and length at every other. -/
theorem buildFragment_shift {index k k' cur n : Nat} (hk : k ≤ 9) (hk' : k' ≤ 9) {ss : List Sym}
    {record : Except Err HeaderMeta} {text : Text} (hbuild : buildFragment cfg index k ss cur record = .ok (text, n)) :
    ∃ text', buildFragment cfg index k' ss cur record = .ok (text', n) ∧ text'.length = text.length := by
  obtain ⟨hcur, m, hrecord, hfragment⟩ := buildFragment_eq_ok_iff.mp hbuild
  obtain ⟨hcount, hlength⟩ := fragmentText_shift h k k' (metadataLines_length_shift index m hk hk') ss cur
  rw [hfragment] at hcount hlength
  exact ⟨_, buildFragment_eq_ok_iff.mpr ⟨hcur, m, hrecord, Prod.ext rfl hcount⟩, hlength⟩

end

/-- Settles O33: `buildFragment_shift` on what FRAG answers. -/
theorem fragShiftIndependent : Obligations.FragShiftIndependent := by
  intro s t shift other text n hshift hother hexec hout
  obtain ⟨hlegal, -⟩ := exec_cases hexec
  rw [exec_frag hlegal hshift] at hexec
  obtain ⟨-, rfl⟩ := datapath_next_iff.mp hexec
  have hanswer : fragAnswer s shift.toNat = .ok (.fragment text n) := by
    cases hfrag : fragAnswer s shift.toNat with
    | error e => simp [hfrag] at hout
    | ok v => simpa [hfrag] using hout
  obtain ⟨ss, hss, hbuild⟩ := exists_of_fragAnswer_eq_ok hanswer
  obtain ⟨text', hbuild', hlength⟩ := buildFragment_shift hlegal hshift hother hbuild
  refine ⟨text', ?_, hlength⟩
  rw [exec_frag hlegal hother, fragAnswer_of_ok hss hbuild']
  exact datapath_ok hlegal _

end Sys2Proof.Machine
end

section
/-! PROOFS. START (spec/44_framer.md R107 to R112). -/

namespace Sys2Proof

/-! ## The order of binary64 (00_scope.md R16) -/

theorem F64.lt_iff {a b : F64} :
    F64.lt a b = true ↔ ∃ x y, F64.orderKey a = some x ∧ F64.orderKey b = some y ∧ x < y := by
  unfold F64.lt
  cases F64.orderKey a <;> cases F64.orderKey b <;> simp

theorem F64.le_iff {a b : F64} :
    F64.le a b = true ↔ ∃ x y, F64.orderKey a = some x ∧ F64.orderKey b = some y ∧ x ≤ y := by
  unfold F64.le
  cases F64.orderKey a <;> cases F64.orderKey b <;> simp

theorem F64.lt_trans {a b c : F64} (hab : F64.lt a b = true) (hbc : F64.lt b c = true) : F64.lt a c = true := by
  obtain ⟨x, y, hx, hy, hxy⟩ := F64.lt_iff.mp hab
  obtain ⟨y', z, hy', hz, hyz⟩ := F64.lt_iff.mp hbc
  obtain rfl : y = y' := Option.some.inj (hy.symm.trans hy')
  exact F64.lt_iff.mpr ⟨x, z, hx, hz, hxy.trans hyz⟩

theorem F64.le_of_lt {a b : F64} (h : F64.lt a b = true) : F64.le a b = true := by
  obtain ⟨x, y, hx, hy, hxy⟩ := F64.lt_iff.mp h
  exact F64.le_iff.mpr ⟨x, y, hx, hy, hxy.le⟩

theorem F64.le_refl_of_isFinite {a : F64} (h : a.isFinite = true) : F64.le a a = true := by
  cases a with
  | fin s m => exact F64.le_iff.mpr ⟨_, _, rfl, rfl, le_rfl⟩
  | inf _ => cases h
  | nan => cases h

end Sys2Proof

namespace Sys2Proof.Machine

/-! ## The checks of a field (44_framer.md R107) -/

theorem hoursAscending_iff (hs : List Nat) : hoursAscending hs = true ↔ hs.Pairwise fun a b => a < b := by
  rw [← List.isChain_iff_pairwise]
  induction hs with
  | nil => simp [hoursAscending]
  | cons a hs ih =>
    cases hs with
    | nil => simp [hoursAscending]
    | cons b hs => simp [hoursAscending, ih]

theorem axisAscending_iff (xs : List F64) : axisAscending xs = true ↔ ascendingReals xs := by
  have : IsTrans F64 fun a b => F64.lt a b = true := ⟨fun _ _ _ => F64.lt_trans⟩
  rw [ascendingReals, ← List.isChain_iff_pairwise]
  induction xs with
  | nil => simp [axisAscending]
  | cons a xs ih =>
    cases xs with
    | nil => simp [axisAscending]
    | cons b xs => simp [axisAscending, ih]

/-- START's check for one reason, as `fieldDefect` makes it. -/
def fieldCheck (F : WindField) : FieldReason → Bool
  | .noHours => decide (F.hours ≠ [])
  | .hoursOrder => hoursAscending F.hours
  | .axisLength => decide (¬(F.lat.length < 2 ∨ F.lon.length < 2))
  | .axisValue => F.lat.all F64.isFinite && F.lon.all F64.isFinite
  | .axisOrder => axisAscending F.lat && axisAscending F.lon
  | .baseTime => F.base.valid
  | .cellCount => decide (F.u.length = fieldCells F ∧ F.v.length = fieldCells F)

/-- Each check is the condition 44_framer.md R107 lists. -/
theorem fieldCheck_iff (F : WindField) (reason : FieldReason) : fieldCheck F reason = true ↔ fieldMeets F reason := by
  cases reason with
  | noHours => simp [fieldCheck, fieldMeets]
  | hoursOrder => exact hoursAscending_iff _
  | axisLength => simp [fieldCheck, fieldMeets, Nat.succ_le_iff]
  | axisValue => simp [fieldCheck, fieldMeets, or_imp, forall_and]
  | axisOrder => simp [fieldCheck, fieldMeets, axisAscending_iff]
  | baseTime => exact F.base.valid_iff
  | cellCount => exact decide_eq_true_iff

theorem find?_cons_eq_ite {α : Type} (p : α → Bool) (a : α) (l : List α) :
    (a :: l).find? p = if p a = true then some a else l.find? p := by
  rw [List.find?_cons]
  cases p a <;> rfl

/-- START refuses a field for the first reason whose check fails. -/
theorem fieldDefect_eq_find? (F : WindField) : fieldDefect F = fieldReasons.find? fun r => !fieldCheck F r := by
  simp only [fieldDefect, fieldReasons, find?_cons_eq_ite, List.find?_nil, fieldCheck, Bool.not_eq_true',
    decide_eq_false_iff_not, not_not]

theorem fieldDefect_eq_some_iff {F : WindField} {reason : FieldReason} :
    fieldDefect F = some reason ↔ firstDefect F reason := by
  rw [fieldDefect_eq_find?, List.find?_eq_some_iff_append, firstDefect]
  simp only [Bool.not_eq_true', Bool.not_not, fieldCheck_iff, ← Bool.not_eq_true]
  exact ⟨fun ⟨hfails, met, later, heq, hmet⟩ => ⟨met, later, heq, hmet, hfails⟩,
    fun ⟨met, later, heq, hmet, hfails⟩ => ⟨hfails, met, later, heq, hmet⟩⟩

theorem fieldDefect_eq_none_iff {F : WindField} : fieldDefect F = none ↔ ∀ reason, fieldMeets F reason := by
  rw [fieldDefect_eq_find?, List.find?_eq_none]
  simp only [Bool.not_eq_true', Bool.not_eq_false, fieldCheck_iff]
  refine ⟨fun h reason => h reason ?_, fun h reason _ => h reason⟩
  cases reason <;> simp [fieldReasons]

/-! ## The header of a legal field (44_framer.md R108, R109) -/

/-- What a legal field says of one of its axes. -/
structure LegalAxis (xs : List F64) : Prop where
  twoPoints : 2 ≤ xs.length
  finite : ∀ x ∈ xs, x.isFinite = true
  ascending : ascendingReals xs

theorem legalAxes_of_fieldDefect {F : WindField} (h : fieldDefect F = none) : LegalAxis F.lat ∧ LegalAxis F.lon := by
  have hmeets := fieldDefect_eq_none_iff.mp h
  obtain ⟨hlat, hlon⟩ : 2 ≤ F.lat.length ∧ 2 ≤ F.lon.length := hmeets .axisLength
  obtain ⟨hlatAsc, hlonAsc⟩ : ascendingReals F.lat ∧ ascendingReals F.lon := hmeets .axisOrder
  have hfinite : ∀ x ∈ F.lat ++ F.lon, x.isFinite = true := hmeets .axisValue
  exact ⟨⟨hlat, fun x hx => hfinite x (List.mem_append_left _ hx), hlatAsc⟩,
    ⟨hlon, fun x hx => hfinite x (List.mem_append_right _ hx), hlonAsc⟩⟩

/-- An axis is bounded below by its first point and above by its last. -/
theorem LegalAxis.bounds {xs : List F64} (h : LegalAxis xs) :
    xs[0]? = some (xs.headD F64.zero) ∧ xs[xs.length - 1]? = some (xs.getLastD F64.zero) ∧
      ∀ x ∈ xs, F64.le (xs.headD F64.zero) x = true ∧ F64.le x (xs.getLastD F64.zero) = true := by
  obtain ⟨hlen, hfinite, hasc⟩ := h
  have hfirst : xs[0]? = some (xs.headD F64.zero) := by
    cases xs with
    | nil => simp at hlen
    | cons x xs => rfl
  have hlast : xs[xs.length - 1]? = some (xs.getLastD F64.zero) := by
    rw [← List.getLast?_eq_getElem?, List.getLastD_eq_getLast?]
    cases hl : xs.getLast? with
    | none =>
      rw [List.getLast?_eq_none_iff.mp hl] at hlen
      simp at hlen
    | some x => rfl
  have hle {i j : Nat} {a b : F64} (hij : i ≤ j) (hi : xs[i]? = some a) (hj : xs[j]? = some b) : F64.le a b = true := by
    obtain ⟨hi', rfl⟩ := List.getElem?_eq_some_iff.mp hi
    obtain ⟨hj', rfl⟩ := List.getElem?_eq_some_iff.mp hj
    rcases hij.lt_or_eq with hlt | rfl
    · exact F64.le_of_lt (List.pairwise_iff_getElem.mp hasc i j hi' hj' hlt)
    · exact F64.le_refl_of_isFinite (hfinite _ (List.getElem_mem hi'))
  refine ⟨hfirst, hlast, fun x hx => ?_⟩
  obtain ⟨i, hi⟩ := List.mem_iff_getElem?.mp hx
  have hbound : i < xs.length := (List.getElem?_eq_some_iff.mp hi).1
  exact ⟨hle (Nat.zero_le i) hfirst hi, hle (by omega) hi hlast⟩

theorem LegalAxis.axisStep_eq {xs : List F64} (h : LegalAxis xs) :
    ∃ a b, xs[0]? = some a ∧ xs[1]? = some b ∧ axisStep xs = F64.sub b a := by
  match xs, h.twoPoints with
  | a :: b :: _, _ => exact ⟨a, b, rfl, rfl, rfl⟩

/-- `laterSteps` lists the differences of neighbouring points. -/
theorem mem_laterSteps_iff {d : F64} {xs : List F64} :
    d ∈ laterSteps xs ↔ ∃ (i : Nat) (a b : F64), xs[i]? = some a ∧ xs[i + 1]? = some b ∧ d = F64.sub b a := by
  induction xs with
  | nil => simp [laterSteps]
  | cons a xs ih =>
    cases xs with
    | nil => simp [laterSteps]
    | cons b xs =>
      rw [laterSteps, List.mem_cons, ih]
      constructor
      · rintro (rfl | ⟨i, x, y, hx, hy, rfl⟩)
        · exact ⟨0, a, b, rfl, rfl, rfl⟩
        · exact ⟨i + 1, x, y, hx, hy, rfl⟩
      · rintro ⟨i, x, y, hx, hy, rfl⟩
        cases i with
        | zero =>
          obtain ⟨rfl, rfl⟩ : a = x ∧ b = y := by simpa using And.intro hx hy
          exact .inl rfl
        | succ i => exact .inr ⟨i, x, y, hx, hy, rfl⟩

/-- An axis is irregular exactly when the step from one of its points after the first is off its first step by more than the
tolerance. -/
theorem irregularAxis_iff (cfg : Cfg) (xs : List F64) :
    irregularAxis cfg xs = true ↔
      ∃ i a b, 1 ≤ i ∧ xs[i]? = some a ∧ xs[i + 1]? = some b ∧
        F64.lt cfg.spacingTol (F64.abs (F64.sub (F64.sub b a) (axisStep xs))) = true := by
  rw [irregularAxis, List.any_eq_true]
  constructor
  · rintro ⟨d, hd, hlt⟩
    obtain ⟨i, a, b, ha, hb, rfl⟩ := mem_laterSteps_iff.mp hd
    rw [List.getElem?_drop] at ha hb
    exact ⟨1 + i, a, b, Nat.le_add_right 1 i, ha, hb, hlt⟩
  · rintro ⟨i, a, b, hi, ha, hb, hlt⟩
    obtain ⟨j, rfl⟩ := Nat.exists_eq_add_of_le hi
    refine ⟨_, mem_laterSteps_iff.mpr ⟨j, a, b, ?_, ?_, rfl⟩, hlt⟩ <;> rwa [List.getElem?_drop]

/-- Settles O38: the two axes of a legal field, each by `LegalAxis.bounds`, `LegalAxis.axisStep_eq` and `irregularAxis_iff`. -/
theorem headerOfLegalField : Obligations.HeaderOfLegalField := by
  intro F hdefect
  obtain ⟨hlat, hlon⟩ := legalAxes_of_fieldDefect hdefect
  obtain ⟨hlatFirst, hlatLast, hlatBounds⟩ := hlat.bounds
  obtain ⟨hlonFirst, hlonLast, hlonBounds⟩ := hlon.bounds
  exact ⟨rfl, rfl, hlatFirst, hlatLast, hlonFirst, hlonLast, hlatBounds, hlonBounds, hlat.axisStep_eq, hlon.axisStep_eq,
    fun cfg => ⟨irregularAxis_iff cfg F.lat, irregularAxis_iff cfg F.lon⟩⟩

/-! ## START of a field (44_framer.md R112) -/

section
variable {s : State} {F : WindField}

theorem exec_start_of_field (hlegal : s.cfg.legal = true) (hs : s.state ≠ .sending)
    (hport : s.port.F = FieldOperand.of F) : exec .start s = .next (s.begin F) := by
  have hfield : fieldOf s.port.F = .ok F := hport ▸ rfl
  rw [exec_start hlegal, State.startNext, if_neg hs, hfield]

theorem begin_of_defect {reason : FieldReason} (h : fieldDefect F = some reason) :
    s.begin F = s.cleared.fault (.invalidField reason) := by
  rw [State.begin, h]

/-- A legal field is quantized cell by cell. -/
theorem quantizeField_of_legal (cfg : Cfg) (h : fieldDefect F = none) :
    quantizeField cfg F = quantizeCells cfg 0 (F.u.zip F.v) := by
  obtain ⟨hu, hv⟩ : F.u.length = fieldCells F ∧ F.v.length = fieldCells F := fieldDefect_eq_none_iff.mp h .cellCount
  exact quantizeField_of_length cfg hu hv

theorem begin_of_bad_cell (h : fieldDefect F = none) {e : Err} (hcells : quantizeCells s.cfg 0 (F.u.zip F.v) = .error e) :
    s.begin F = (s.cleared.withField F).fault e := by
  rw [State.begin, h, quantizeField_of_legal s.cfg h, hcells]

theorem begin_of_samples (h : fieldDefect F = none) {S : List Sample}
    (hcells : quantizeCells s.cfg 0 (F.u.zip F.v) = .ok S) :
    s.begin F = ((s.cleared.withField F).withSamples S).render s := by
  rw [State.begin, h, quantizeField_of_legal s.cfg h, hcells]

end

/-! ## Render of a known fragment (44_framer.md R111) -/

section
variable {s : State} {text : Text} {n : Nat}

theorem render_of_fragment (before : State) (h : renderRequest s = .ok (text, n)) (hn : n ≠ 0) :
    s.render before =
      { s with txbuf := text, count := n, state := .sending, txlog := s.txlog ++ [.send text], out := .ok .none } := by
  rw [renderRequest] at h
  simp [State.render, h, hn]

theorem render_of_no_room (before : State) (h : renderRequest s = .ok (text, 0)) :
    s.render before = s.fault (.frameOverflow s.index) := by
  rw [renderRequest] at h
  simp [State.render, h]

/-- Render is asked for the fragment after the metadata lines that the registers give. -/
theorem renderRequest_eq_ok (hlegal : s.cfg.legal = true) (hshift : s.shift.toNat ≤ 9) (hcursor : s.cursor ≤ s.syms.length)
    (hheader : s.index = 0 → s.header.hours ≠ [] ∧ realsFinite s.header = true) :
    renderRequest s =
      .ok (fragmentText s.cfg s.shift.toNat (metadataLines s.index s.shift.toNat s.header) s.syms s.cursor) := by
  rw [renderRequest_eq hlegal hshift, buildFragment_eq_ok_iff]
  exact ⟨hcursor, s.header, fun hindex => ⟨rfl, hheader hindex⟩, rfl⟩

end

/-- START's request for the header fragment. -/
theorem renderRequest_start {s : State} {F : WindField} (hlegal : s.cfg.legal = true) (h : fieldDefect F = none)
    (hfinite : realsFinite (fieldMeta F) = true) (S : List Sample) :
    renderRequest ((s.cleared.withField F).withSamples S) =
      .ok (fragmentText s.cfg 0 (headerLines (fieldMeta F) 0) (groupBits (packSamples S)) 0) := by
  have hhours : F.hours ≠ [] := fieldDefect_eq_none_iff.mp h .noHours
  exact renderRequest_eq_ok (s := (s.cleared.withField F).withSamples S) hlegal (Nat.zero_le _) (Nat.zero_le _)
    fun _ => ⟨hhours, hfinite⟩

/-! ## What START raises -/

/-- Outside FRAG's own errors Render raises FrameOverflow alone, and FRAG has no InvalidField. -/
theorem render_out_ne_invalidField {s : State} (hlegal : s.cfg.legal = true) (hshift : s.shift.toNat ≤ 9)
    (before : State) (reason : FieldReason) : (s.render before).out ≠ .err (.invalidField reason) := by
  obtain ⟨e, hrequest, ht⟩ | ⟨text, -, ht⟩ | ⟨text, n, -, ht⟩ := render_cases s before <;> rw [ht]
  · rw [renderRequest_eq hlegal hshift] at hrequest
    rintro ⟨⟩
    obtain ⟨-, heq⟩ | ⟨-, -, -, heq⟩ | ⟨-, -, -, heq⟩ | ⟨-, -, heq⟩ :=
      buildFragment_cases s.cfg s.index s.shift.toNat s.syms s.cursor s.header <;>
      cases heq.symm.trans hrequest
  · nofun
  · nofun

theorem begin_out_ne_invalidField {s : State} {F : WindField} (hlegal : s.cfg.legal = true) (h : fieldDefect F = none)
    (reason : FieldReason) : (s.begin F).out ≠ .err (.invalidField reason) := by
  cases hcells : quantizeCells s.cfg 0 (F.u.zip F.v) with
  | error e =>
    rw [begin_of_bad_cell h hcells]
    rintro ⟨⟩
    cases quantizeCells_error hcells
  | ok S =>
    rw [begin_of_samples h hcells]
    exact render_out_ne_invalidField (s := (s.cleared.withField F).withSamples S) hlegal (Nat.zero_le _) s reason

/-- Settles O37: `fieldDefect` is the first defect of R107, and no other error of START is InvalidField. -/
theorem startChecksField : Obligations.StartChecksField := by
  intro s F hlegal hs hport
  refine ⟨fun reason hfirst => ?_, fun hmeets => ?_⟩
  · rw [exec_start_of_field hlegal hs hport, begin_of_defect (fieldDefect_eq_some_iff.mpr hfirst)]
    rfl
  · exact ⟨_, exec_start_of_field hlegal hs hport,
      begin_out_ne_invalidField hlegal (fieldDefect_eq_none_iff.mpr hmeets)⟩

/-- Settles O39: Render of the header fragment on the registers START has loaded. -/
theorem startSendsHeader : Obligations.StartSendsHeader := by
  intro s F S text n hlegal hs hport hdefect hcells hfinite hfragment hn
  have hrequest := renderRequest_start (s := s) hlegal hdefect hfinite S
  rw [hfragment] at hrequest
  rw [exec_start_of_field hlegal hs hport, begin_of_samples hdefect hcells, render_of_fragment s hrequest hn]
  rfl

/-- A first symbol that does not fit leaves the fragment without any. -/
theorem fragmentText_count_eq_zero {cfg : Cfg} (h : cfg.legal = true) (k : Nat) {lines : Text} {x : Sym} (xs : List Sym)
    (hroom : 120 < countedBefore cfg lines + (encodeSymbol cfg x k).length) :
    (fragmentText cfg k lines (x :: xs) 0).2 = 0 := by
  simp [fragmentText_eq, fillPayload, Cfg.legal_maxPayload h, Nat.not_le.mpr hroom]

/-- Settles O40: the first cell that does not quantize, and a header fragment with no symbol. -/
theorem startFaults : Obligations.StartFaults := by
  intro s F hlegal hs hport hdefect
  rw [exec_start_of_field hlegal hs hport]
  refine ⟨fun c u v hu hv hnone hbefore => ?_, fun S x xs hcells hfinite hscope hsyms hroom => ?_⟩
  · have hcell := List.getElem?_zip_eq_some (z := (u, v)).mpr ⟨hu, hv⟩
    have hfirst : ∀ d x y, d < c → (F.u.zip F.v)[d]? = some (x, y) → quantize s.cfg x y ≠ none := fun d x y hd hxy =>
      have ⟨hx, hy⟩ := List.getElem?_zip_eq_some.mp hxy
      hbefore d x y hd hx hy
    have hbad := quantizeCells_first_none hnone hcell hfirst 0
    rw [Nat.zero_add] at hbad
    rw [begin_of_bad_cell hdefect hbad]
    rfl
  · have hrequest := renderRequest_start (s := s) hlegal hdefect hfinite S
    have hcount : (fragmentText s.cfg 0 (headerLines (fieldMeta F) 0) (x :: xs) 0).2 = 0 :=
      fragmentText_count_eq_zero hlegal 0 xs (by rw [countedBefore_eq, if_pos hscope]; exact hroom)
    rw [hsyms, ← Prod.mk.eta (p := fragmentText _ _ _ _ _), hcount] at hrequest
    rw [begin_of_samples hdefect hcells, render_of_no_room s hrequest, State.withSamples, hsyms]
    rfl

end Sys2Proof.Machine
end

section
/-! PROOFS. SENDACK and CANCEL, and the fragment under way (spec/44_framer.md R104, R106, R113, R115, R119). -/

namespace Sys2Proof.Machine

/-! ## CANCEL (44_framer.md R115) -/

/-- Settles O42: the two cases of CANCEL. -/
theorem cancelResult : Obligations.CancelResult := by
  intro s hlegal
  have hexec : exec .cancel s = .next s.cancelNext := guarded_eq_next hlegal
  rw [hexec]
  obtain ⟨hs, ht⟩ | ⟨hs, ht⟩ := cancelNext_cases s <;> rw [ht]
  · exact ⟨fun _ => rfl, fun hnot => absurd hs hnot⟩
  · exact ⟨fun hsending => absurd hsending hs, fun _ => rfl⟩

/-! ## The outcomes of SENDACK (44_framer.md R110, R113) -/

section
variable {s : State} {text : Text} {n : Nat}

theorem sendackNext_true (hs : s.state = .sending) : s.sendackNext true = s.accepted := by
  rw [State.sendackNext, if_neg (not_not.mpr hs), if_pos rfl]

theorem sendackNext_false (hs : s.state = .sending) : s.sendackNext false = s.rejected := by
  rw [State.sendackNext, if_neg (not_not.mpr hs), if_neg Bool.false_ne_true]

theorem accepted_of_last (hlast : s.cursor + s.count = s.nsym) :
    s.accepted =
      { s with
        cursor := s.cursor + s.count, state := .done, result := .true, txlog := s.txlog ++ [.ack true],
        out := .ok .none } := if_pos hlast

theorem accepted_of_more (hmore : s.cursor + s.count ≠ s.nsym) : s.accepted = s.advanced.render s := if_neg hmore

/-- The request for the next fragment: its metadata line is a data fragment's. -/
theorem renderRequest_advanced (hlegal : s.cfg.legal = true) (hrange : s.cursor + s.count ≤ s.syms.length) :
    renderRequest s.advanced =
      .ok (fragmentText s.cfg 0 (dataLine (s.index + 1) 0) s.syms (s.cursor + s.count)) :=
  renderRequest_eq_ok (s := s.advanced) hlegal (Nat.zero_le _) hrange fun hindex => absurd hindex s.index.succ_ne_zero

theorem accepted_of_fragment (hs : s.state = .sending) (hmore : s.cursor + s.count ≠ s.nsym)
    (h : renderRequest s.advanced = .ok (text, n)) (hn : n ≠ 0) :
    s.accepted =
      { s with
        cursor := s.cursor + s.count, index := s.index + 1, shift := 0, count := n, txbuf := text,
        txlog := s.txlog ++ [.ack true, .send text], out := .ok .none } := by
  rw [accepted_of_more hmore, render_of_fragment s h hn]
  simp [State.advanced, hs]

theorem accepted_of_no_room (hmore : s.cursor + s.count ≠ s.nsym) (h : renderRequest s.advanced = .ok (text, 0)) :
    s.accepted =
      { s with
        cursor := s.cursor + s.count, index := s.index + 1, shift := 0, state := .faulted, result := .false,
        err := .frameOverflow, txlog := s.txlog ++ [.ack true], out := .err (.frameOverflow (s.index + 1)) } := by
  rw [accepted_of_more hmore, render_of_no_room s h]
  rfl

theorem shift_succ_toNat (hshift : s.shift.toNat ≤ 9) : (s.shift + 1).toNat = s.shift.toNat + 1 := by bv_omega

theorem rejected_of_last (hlegal : s.cfg.legal = true) (hshift : s.shift.toNat = 9) :
    s.rejected =
      { s with
        shift := 10, state := .exhausted, result := .false, err := .retryExhausted, txlog := s.txlog ++ [.ack false],
        out := .err (.retryExhausted s.index) } := by
  have hten : s.shift + 1 = 10 := by bv_omega
  rw [State.rejected, if_pos (by rw [hten, Cfg.legal_shiftLimit hlegal]; rfl), hten]
  rfl

theorem rejected_of_fragment (hlegal : s.cfg.legal = true) (hs : s.state = .sending) (hshift : s.shift.toNat < 9)
    (h : renderRequest s.retried = .ok (text, n)) (hn : n ≠ 0) :
    s.rejected =
      { s with
        shift := s.shift + 1, count := n, txbuf := text, txlog := s.txlog ++ [.ack false, .send text],
        out := .ok .none } := by
  have hmore : ¬(s.shift + 1).toNat = s.cfg.shiftLimit := by
    rw [shift_succ_toNat hshift.le, Cfg.legal_shiftLimit hlegal]
    omega
  rw [State.rejected, if_neg hmore, ← State.retried, render_of_fragment s h hn]
  simp [State.retried, hs]

end

/-- Settles O41: the outcomes of SENDACK, each on the request that Render is given. -/
theorem sendackResult : Obligations.SendackResult := by
  intro s hlegal hs
  rw [exec_sendack hlegal, exec_sendack hlegal, sendackNext_true hs, sendackNext_false hs]
  refine ⟨fun hlast => congrArg _ (accepted_of_last hlast), fun text n hmore hrange hfragment => ?_,
    fun hshift => congrArg _ (rejected_of_last hlegal hshift),
    fun text n hshift hcursor hheader hfragment hn => congrArg _ (rejected_of_fragment hlegal hs hshift ?_ hn)⟩
  · have hrequest := renderRequest_advanced hlegal hrange
    rw [hfragment] at hrequest
    refine ⟨fun hn => congrArg _ (accepted_of_fragment hs hmore hrequest hn), ?_⟩
    rintro rfl
    exact congrArg _ (accepted_of_no_room hmore hrequest)
  · have hsucc := shift_succ_toNat hshift.le
    have hrequest := renderRequest_eq_ok (s := s.retried) hlegal (hsucc.trans_le hshift) hcursor hheader
    rw [← hfragment, ← hsucc]
    exact hrequest

/-! ## The fragment that waits for its answer -/

/-- In SENDING, TXBUF and COUNT are the fragment of the other registers, and a header fragment has a whole record. -/
theorem State.Inv.fragment {s : State} (h : s.Inv) (hs : s.state = .sending) :
    fragmentText s.cfg s.shift.toNat (metadataLines s.index s.shift.toNat s.header) s.syms s.cursor =
        (s.txbuf, s.count) ∧
      (s.index = 0 → s.header.hours ≠ [] ∧ realsFinite s.header = true) := by
  obtain ⟨⟨-, -, -, hbuild, -⟩, -, -⟩ := h.of_sending hs
  obtain ⟨-, m, hrecord, hfragment⟩ := buildFragment_eq_ok_iff.mp hbuild
  by_cases hindex : s.index = 0
  · obtain ⟨heq, hm⟩ := hrecord hindex
    cases heq
    exact ⟨hfragment, fun _ => hm⟩
  · rw [metadataLines, if_neg hindex] at hfragment ⊢
    exact ⟨hfragment, fun h0 => absurd h0 hindex⟩

/-- A failed answer before the tenth sends the same range at the next shift. -/
theorem State.Inv.rejected_eq {s : State} (h : s.Inv) (hs : s.state = .sending) (hshift : s.shift.toNat < 9) :
    ∃ text, s.rejected =
        { s with
          shift := s.shift + 1, txbuf := text, txlog := s.txlog ++ [.ack false, .send text], out := .ok .none } ∧
      text.length = s.txbuf.length := by
  obtain ⟨⟨hcount, -, -, hbuild, -⟩, -, -⟩ := h.of_sending hs
  have hsucc := shift_succ_toNat hshift.le
  obtain ⟨text, hretry, hlength⟩ := buildFragment_shift h.legal hshift.le (k' := (s.shift + 1).toNat) (by omega) hbuild
  have hrequest : renderRequest s.retried = .ok (text, s.count) :=
    (renderRequest_eq (s := s.retried) h.legal (hsucc.trans_le hshift)).trans hretry
  exact ⟨text, rejected_of_fragment h.legal hs hshift hrequest (by omega), hlength⟩

/-- Settles O46: `State.Inv.rejected_eq` on the answer of SENDACK 0. -/
theorem retryKeepsRange : Obligations.RetryKeepsRange := by
  intro s h hs hshift
  rw [exec_sendack h.legal, sendackNext_false hs]
  obtain ⟨text, ht, hlength⟩ := h.rejected_eq hs hshift
  exact ⟨text, congrArg _ ht, hlength⟩

/-- A text ends in END only after its last line. -/
theorem endToken_suffix_append_iff (t : Text) {tail : Text} (htail : tail = [] ∨ tail = endToken) :
    endToken <:+ t ++ [nl] ++ tail ↔ tail = endToken := by
  constructor
  · rintro ⟨r, hr⟩
    refine htail.resolve_left ?_
    rintro rfl
    have hlast := congrArg List.getLast? hr
    simp [endToken, nl] at hlast
  · rintro rfl
    exact List.suffix_append _ _

/-- Settles O47: the waiting fragment is the fragment of the registers, so its tail, its payload and its length are known. -/
theorem sentFragments : Obligations.SentFragments := by
  intro s h hs
  obtain ⟨⟨hcount, -, -, -, -⟩, -, -⟩ := h.of_sending hs
  obtain ⟨hfragment, -⟩ := h.fragment hs
  generalize hlines : metadataLines s.index s.shift.toNat s.header = lines at hfragment
  have htext := fragmentText_text s.cfg s.shift.toNat lines s.syms s.cursor
  have hfits := fragmentText_fits h.legal s.shift.toNat lines s.syms s.cursor (by rw [hfragment]; exact hcount)
  rw [hfragment] at htext hfits
  rw [countedBefore_eq] at hfits
  generalize encodeText s.cfg ((s.syms.drop s.cursor).take s.count) s.shift.toNat = payload at htext hfits
  rw [← h.nsymIsLength] at htext
  generalize htail : (if s.cursor + s.count = s.nsym then endToken else []) = tail at htext
  have htails : tail = [] ∨ tail = endToken := by
    rw [← htail]
    split
    · exact .inr rfl
    · exact .inl rfl
  have hend : tail = endToken ↔ s.cursor + s.count = s.nsym := by
    rw [← htail]
    split
    · next heq => exact iff_of_true rfl heq
    · next hne => exact iff_of_false nofun hne
  refine ⟨?_, ⟨payload, tail, htext, by omega, htails⟩, fun hwhole => ?_⟩
  · rw [← hend, ← endToken_suffix_append_iff (lines ++ payload) htails, ← htext]
  · rw [if_pos hwhole] at hfits
    have hthree : tail.length ≤ 3 := by obtain rfl | rfl := htails <;> decide
    have hlength := congrArg List.length htext
    simp only [List.length_append, List.length_singleton] at hlength
    omega

end Sys2Proof.Machine
end

section
/-! PROOFS. Whole encodes: START and the host's answers (spec/44_framer.md R118, R120, R121). -/

namespace Sys2Proof.Machine

/-! ## An encode begun (44_framer.md R112) -/

/-- `t` waits with the header fragment of an encode that began after the events `earlier`. -/
structure EncodeBegun (earlier : List Event) (t : State) : Prop where
  inv : t.Inv
  sending : t.state = .sending
  shift : t.shift = 0
  index : t.index = 0
  cursor : t.cursor = 0
  log : t.txlog = earlier ++ [.send t.txbuf]

/-- START that goes to SENDING has begun an encode: Render has a fragment of prepared registers. -/
theorem startNext_begun {s : State} (hlegal : s.cfg.legal = true) (hs : s.state ≠ .sending)
    (ht : s.startNext.state = .sending) : EncodeBegun s.txlog s.startNext := by
  obtain ⟨hsending, -⟩ | ⟨-, e, -, heq⟩ | ⟨-, F, -, heq⟩ := startNext_cases s
  · exact absurd hsending hs
  · rw [heq] at ht
    exact absurd ht hs
  rw [heq] at ht ⊢
  obtain ⟨reason, -, heq⟩ | ⟨e, -, -, heq⟩ | ⟨S, -, -, heq⟩ := begin_cases s F
  · rw [heq] at ht
    cases ht
  · rw [heq] at ht
    cases ht
  rw [heq] at ht ⊢
  have hprepared : ((s.cleared.withField F).withSamples S).Prepared :=
    ((cleared_prepared hlegal).withField F).withSamples rfl S
  obtain ⟨e, -, heq⟩ | ⟨text, -, heq⟩ | ⟨text, n, hrequest, heq⟩ :=
    render_cases ((s.cleared.withField F).withSamples S) s
  · rw [heq] at ht
    exact absurd ht hs
  · rw [heq] at ht
    cases ht
  · have hinv := hprepared.render_inv invariantAtReset
    rw [render_of_fragment State.reset hrequest n.succ_ne_zero, ← heq] at hinv
    rw [heq] at hinv ⊢
    exact ⟨hinv, rfl, rfl, rfl, rfl, rfl⟩

/-! ## The host's answers (44_framer.md R113) -/

/-- The block after SENDACK for each of a list of answers. -/
def State.answered (s : State) (answers : List Bool) : State := answers.foldl State.sendackNext s

@[simp] theorem State.answered_nil (s : State) : s.answered [] = s := rfl

@[simp] theorem State.answered_cons (s : State) (ok : Bool) (answers : List Bool) :
    s.answered (ok :: answers) = (s.sendackNext ok).answered answers := rfl

theorem State.answered_concat (s : State) (answers : List Bool) (ok : Bool) :
    s.answered (answers ++ [ok]) = (s.answered answers).sendackNext ok := List.foldl_concat ..

theorem State.Inv.answered {s : State} (h : s.Inv) (answers : List Bool) : (s.answered answers).Inv := by
  induction answers generalizing s with
  | nil => exact h
  | cons ok answers ih => exact ih (sendackNext_inv h ok)

/-- Outside SENDING an answer puts NotSending on the result port and changes nothing else. -/
theorem sendackNext_of_not_sending {s : State} (hs : s.state ≠ .sending) (ok : Bool) :
    s.sendackNext ok = s.raise (.illegalCommand .notSending) := if_pos hs

theorem answered_of_not_sending {s : State} (hs : s.state ≠ .sending) (answers : List Bool) :
    ∃ out, s.answered answers = { s with out := out } := by
  induction answers generalizing s with
  | nil => exact ⟨s.out, rfl⟩
  | cons ok answers ih =>
    rw [State.answered_cons, sendackNext_of_not_sending hs]
    exact ih (s := s.raise _) hs

/-- The steps of the answers on the list of acts. -/
theorem run_answers (answers : List Bool) {s : State} (hlegal : s.cfg.legal = true) :
    Host.Core.run Sys2Proof.core answers.length (s.afterAct (answers.map (answerAct s.port))) =
      .next ((s.answered answers).afterAct []) := by
  induction answers generalizing s with
  | nil => rfl
  | cons ok answers ih =>
    obtain ⟨hport, hcfg, -⟩ := sendackNext_sameInputs s ok
    rw [List.length_cons, List.map_cons, run_succ (step_answerAct hlegal ok _), ← hport]
    exact ih (s := s.sendackNext ok) (hcfg ▸ hlegal)

/-- START and an answer for each of a list, where START goes to SENDING. -/
theorem run_startAndAnswers {s s' : State} {operands : Port} {answers : List Bool} (hs : s.state ≠ .sending)
    (hpending : s.pending = startAndAnswers operands answers) (hstep : step s = .next s') (hs' : s'.state = .sending) :
    EncodeBegun s.txlog s' ∧ s'.cfg = s.cfg ∧
      Host.Core.run Sys2Proof.core (answers.length + 1) s = .next ((s'.answered answers).afterAct []) := by
  have hexec := (step_command hpending (rfl : decode 0x00000042 = .ok .start)).symm.trans hstep
  obtain ⟨hlegal, ht⟩ := guarded_next_iff.mp hexec
  obtain ⟨hport, hcfg, hacts⟩ := exec_sameInputs hexec
  have hbegun : EncodeBegun s.txlog s' := by
    rw [ht] at hs' ⊢
    exact startNext_begun (s := s.withOperands operands (answers.map (answerAct operands))) hlegal hs hs'
  have hanswers : s'.pending = answers.map (answerAct s'.port) := by
    rw [hacts, hport]
    rfl
  have hrun := run_answers answers (s := s') (hcfg ▸ hlegal)
  rw [← hanswers] at hrun
  exact ⟨hbegun, hcfg, (run_succ hstep _).trans hrun⟩

/-! ## What an answer makes of the registers -/

theorem State.SameMessage.trans {r s t : State} (hrs : r.SameMessage s) (hst : s.SameMessage t) : r.SameMessage t :=
  ⟨hst.nsym.trans hrs.nsym, hst.syms.trans hrs.syms, hst.header.trans hrs.header, hst.warnLat.trans hrs.warnLat,
    hst.warnLon.trans hrs.warnLon⟩

theorem render_state (s before : State) :
    (s.render before).state = before.state ∨ (s.render before).state = .faulted ∨ (s.render before).state = .sending := by
  obtain ⟨e, -, ht⟩ | ⟨text, -, ht⟩ | ⟨text, n, -, ht⟩ := render_cases s before <;> rw [ht]
  · exact .inl rfl
  · exact .inr (.inl rfl)
  · exact .inr (.inr rfl)

/-- An answer keeps SENDING or ends the encode, in DONE only where the last fragment is accepted. -/
theorem sendackNext_state {s : State} (hs : s.state = .sending) (ok : Bool) :
    (s.sendackNext ok).state = .sending ∨
      ((s.sendackNext ok).state = .done ∧ ok = true ∧ s.cursor + s.count = s.nsym) ∨
        (s.sendackNext ok).state = .exhausted ∨ (s.sendackNext ok).state = .faulted := by
  have hrender (p : State) : (p.render s).state = .sending ∨ (p.render s).state = .faulted := by
    obtain h | h | h := render_state p s
    · exact .inl (h.trans hs)
    · exact .inr h
    · exact .inl h
  cases ok with
  | true =>
    rw [sendackNext_true hs]
    obtain ⟨hlast, ht⟩ | ⟨-, ht⟩ := accepted_cases s <;> rw [ht]
    · exact .inr (.inl ⟨rfl, rfl, hlast⟩)
    · exact (hrender _).imp_right fun h => .inr (.inr h)
  | false =>
    rw [sendackNext_false hs]
    obtain ⟨-, ht⟩ | ⟨-, ht⟩ := rejected_cases s <;> rw [ht]
    · exact .inr (.inr (.inl rfl))
    · exact (hrender _).imp_right fun h => .inr (.inr h)

section
variable {s : State} (h : s.Inv) (hs : s.state = .sending)
include h hs

/-- SENDACK 1 that keeps SENDING has sent the next fragment. -/
theorem State.Inv.accepted_sending (hstill : s.accepted.state = .sending) :
    ∃ text n, s.accepted =
      { s with
        cursor := s.cursor + s.count, index := s.index + 1, shift := 0, count := n, txbuf := text,
        txlog := s.txlog ++ [.ack true, .send text], out := .ok .none } := by
  obtain ⟨⟨-, hrange, -, -, -⟩, -, -⟩ := h.of_sending hs
  by_cases hlast : s.cursor + s.count = s.nsym
  · rw [accepted_of_last hlast] at hstill
    cases hstill
  generalize hfragment : fragmentText s.cfg 0 (dataLine (s.index + 1) 0) s.syms (s.cursor + s.count) = r
  have hrequest := renderRequest_advanced h.legal (h.nsymIsLength ▸ hrange)
  obtain ⟨text, n⟩ := r
  rw [hfragment] at hrequest
  by_cases hn : n = 0
  · subst hn
    rw [accepted_of_no_room hlast hrequest] at hstill
    cases hstill
  · exact ⟨text, n, accepted_of_fragment hs hlast hrequest hn⟩

/-- SENDACK 0 that keeps SENDING has sent the same range at the next shift. -/
theorem State.Inv.rejected_sending (hstill : s.rejected.state = .sending) :
    s.shift.toNat < 9 ∧ ∃ text, s.rejected =
      { s with
        shift := s.shift + 1, txbuf := text, txlog := s.txlog ++ [.ack false, .send text], out := .ok .none } := by
  obtain ⟨⟨-, -, hshift, -, -⟩, -, -⟩ := h.of_sending hs
  rcases hshift.lt_or_eq with hlt | hnine
  · obtain ⟨text, ht, -⟩ := h.rejected_eq hs hlt
    exact ⟨hlt, text, ht⟩
  · rw [rejected_of_last h.legal hnine] at hstill
    cases hstill

end

/-! ## Ten failures (44_framer.md R118) -/

/-- One failed attempt at the header fragment of a message: its Send at a shift and the Ack. -/
def failedAttempt (t : State) (k : Nat) : List Event :=
  [.send (fragmentText t.cfg k (headerLines t.header k) t.syms 0).1, .ack false]

/-- `r` waits at shift k with the header fragment of the message of `t`, after k failures that follow the events `earlier`; one more
completes k + 1 failed attempts. -/
structure AfterFailures (earlier : List Event) (t r : State) (k : Nat) : Prop where
  inv : r.Inv
  sending : r.state = .sending
  shift : r.shift.toNat = k
  index : r.index = 0
  cursor : r.cursor = 0
  cfg : r.cfg = t.cfg
  message : t.SameMessage r
  log : r.txlog ++ [.ack false] = earlier ++ (List.range (k + 1)).flatMap (failedAttempt t)

/-- The text sent is that of the attempt at SHIFT. -/
theorem failedAttempt_eq {t r : State} (h : r.Inv) (hs : r.state = .sending) (hindex : r.index = 0) (hcursor : r.cursor = 0)
    (hcfg : r.cfg = t.cfg) (hmessage : t.SameMessage r) :
    failedAttempt t r.shift.toNat = [.send r.txbuf, .ack false] := by
  obtain ⟨hfragment, -⟩ := h.fragment hs
  rw [hindex, hcursor, metadataLines, if_pos rfl, hcfg, hmessage.header, hmessage.syms] at hfragment
  rw [failedAttempt, hfragment]

theorem EncodeBegun.afterFailures {earlier : List Event} {t : State} (h : EncodeBegun earlier t) :
    AfterFailures earlier t t 0 := by
  have hmessage : t.SameMessage t := ⟨rfl, rfl, rfl, rfl, rfl⟩
  have hattempt := failedAttempt_eq h.inv h.sending h.index h.cursor rfl hmessage
  have hshift : t.shift.toNat = 0 := congrArg BitVec.toNat h.shift
  refine ⟨h.inv, h.sending, hshift, h.index, h.cursor, rfl, hmessage, ?_⟩
  rw [hshift] at hattempt
  simp [h.log, hattempt]

theorem AfterFailures.sendackNext {earlier : List Event} {t r : State} {k : Nat} (h : AfterFailures earlier t r k)
    (hk : k < 9) : AfterFailures earlier t (r.sendackNext false) (k + 1) := by
  have hinv := sendackNext_inv h.inv false
  have hmessage := h.message.trans (sendackNext_sameMessage r false)
  rw [sendackNext_false h.sending] at hinv hmessage ⊢
  have hshift := h.shift
  obtain ⟨text, ht, -⟩ := h.inv.rejected_eq h.sending (hshift.trans_lt hk)
  have hsucc : (r.shift + 1).toNat = k + 1 := by rw [shift_succ_toNat (by omega), hshift]
  rw [ht] at hinv hmessage ⊢
  have hattempt := failedAttempt_eq hinv h.sending h.index h.cursor h.cfg hmessage
  refine ⟨hinv, h.sending, hsucc, h.index, h.cursor, h.cfg, hmessage, ?_⟩
  simp only [hsucc] at hattempt
  rw [List.range_succ, List.flatMap_append, ← List.append_assoc, ← h.log]
  simp [hattempt]

theorem EncodeBegun.answered_failures {earlier : List Event} {t : State} (h : EncodeBegun earlier t) {k : Nat} (hk : k ≤ 9) :
    AfterFailures earlier t (t.answered (List.replicate k false)) k := by
  induction k with
  | zero => exact h.afterFailures
  | succ k ih =>
    rw [List.replicate_succ', State.answered_concat]
    exact (ih (by omega)).sendackNext hk

/-- Settles O48: nine retries of the header fragment by `EncodeBegun.answered_failures`, and the tenth failure at shift 9. -/
theorem tenFailuresExhaust : Obligations.TenFailuresExhaust := by
  intro s s' operands hs hpending hstep hs'
  obtain ⟨hbegun, -, hrun⟩ := run_startAndAnswers hs hpending hstep hs'
  have hnine := hbegun.answered_failures (k := 9) le_rfl
  generalize hr : s'.answered (List.replicate 9 false) = r at hnine
  have hten : s'.answered (List.replicate 10 false) = r.sendackNext false := by
    rw [← hr, ← State.answered_concat, ← List.replicate_succ']
  rw [sendackNext_false hnine.sending, rejected_of_last hnine.inv.legal hnine.shift] at hten
  rw [hten, List.length_replicate] at hrun
  refine ⟨_, hrun, rfl, rfl, rfl, hnine.index, ?_⟩
  rw [eventsSince, State.afterAct_txlog, hnine.log]
  exact List.drop_left ..

/-! ## The end of every encode (44_framer.md R120) -/

/-- How many answers an encode can still take: ten for each symbol left, less the failures of the waiting fragment. -/
def State.answersLeft (s : State) : Nat := 10 * (s.nsym - s.cursor) - s.shift.toNat

theorem State.Inv.answersLeft_pos {s : State} (h : s.Inv) (hs : s.state = .sending) : 0 < s.answersLeft := by
  obtain ⟨⟨hcount, hrange, hshift, -, -⟩, -, -⟩ := h.of_sending hs
  rw [State.answersLeft]
  omega

/-- Each answer that keeps SENDING takes one away: an accepted fragment has a symbol, and a failure raises SHIFT. -/
theorem State.Inv.answersLeft_lt {s : State} (h : s.Inv) (hs : s.state = .sending) {ok : Bool}
    (hstill : (s.sendackNext ok).state = .sending) : (s.sendackNext ok).answersLeft < s.answersLeft := by
  obtain ⟨⟨hcount, hrange, hshift, -, -⟩, -, -⟩ := h.of_sending hs
  cases ok with
  | true =>
    rw [sendackNext_true hs] at hstill ⊢
    obtain ⟨text, n, ht⟩ := h.accepted_sending hs hstill
    rw [ht, State.answersLeft, State.answersLeft]
    simp only
    omega
  | false =>
    rw [sendackNext_false hs] at hstill ⊢
    obtain ⟨hlt, text, ht⟩ := h.rejected_sending hs hstill
    have hsucc := shift_succ_toNat hshift
    rw [ht, State.answersLeft, State.answersLeft]
    simp only [hsucc]
    omega

/-- As many answers as are left end the encode. -/
theorem State.Inv.answered_ended {answers : List Bool} {s : State} (h : s.Inv)
    (hstate : s.state = .sending ∨ s.state.ended = true) (hlen : s.state = .sending → s.answersLeft ≤ answers.length) :
    (s.answered answers).state.ended = true := by
  induction answers generalizing s with
  | nil =>
    refine hstate.resolve_left fun hs => ?_
    exact absurd (hlen hs) (Nat.not_le.mpr (h.answersLeft_pos hs))
  | cons ok answers ih =>
    by_cases hs : s.state = .sending
    · refine ih (sendackNext_inv h ok) ?_ fun hstill => ?_
      · obtain hstill | ⟨hdone, -⟩ | hexhausted | hfaulted := sendackNext_state hs ok
        · exact .inl hstill
        · exact .inr (hdone ▸ rfl)
        · exact .inr (hexhausted ▸ rfl)
        · exact .inr (hfaulted ▸ rfl)
      · have := h.answersLeft_lt hs hstill
        have := hlen hs
        rw [List.length_cons] at this
        omega
    · obtain ⟨out, ht⟩ := answered_of_not_sending hs (ok :: answers)
      rw [ht]
      exact hstate.resolve_left hs

/-- In an ended state RESULT is TRUE in DONE and FALSE elsewhere (10_state.md R27). -/
theorem State.Inv.result_of_ended {s : State} (h : s.Inv) (hended : s.state.ended = true) :
    s.state = .done ∧ s.result = .true ∨ s.state ≠ .done ∧ s.result = .false := by
  have houtcome := h.outcome
  rw [State.outcomeAgrees] at houtcome
  cases hs : s.state with
  | idle | sending =>
    rw [hs] at hended
    cases hended
  | done =>
    rw [hs] at houtcome
    exact .inl ⟨rfl, houtcome.1⟩
  | exhausted | faulted | cancelled =>
    rw [hs] at houtcome
    exact .inr ⟨nofun, houtcome.1⟩

/-- Settles O49: START leaves ten answers for each symbol, and each answer takes one or ends the encode. -/
theorem encodeEnds : Obligations.EncodeEnds := by
  intro s s' operands answers hs hpending hstep hs' hlen
  obtain ⟨hbegun, -, hrun⟩ := run_startAndAnswers hs hpending hstep hs'
  have hleft : s'.answersLeft ≤ answers.length := by
    rw [hlen, State.answersLeft]
    omega
  have hended := hbegun.inv.answered_ended (.inl hs') fun _ => hleft
  exact ⟨_, hrun, hended, (hbegun.inv.answered answers).result_of_ended hended⟩

/-! ## The accepted fragments (44_framer.md R121) -/

section
variable (cfg : Cfg) (m : HeaderMeta) (ss : List Sym)

theorem messageCursor_concat (index cur : Nat) (ks : List Nat) (k : Nat) :
    messageCursor cfg m ss index cur (ks ++ [k]) =
      messageCursor cfg m ss index cur ks +
        (fragmentText cfg k (metadataLines (index + ks.length) k m) ss (messageCursor cfg m ss index cur ks)).2 := by
  induction ks generalizing index cur with
  | nil => rfl
  | cons j ks ih =>
    rw [List.cons_append, messageCursor, ih, List.length_cons, messageCursor, Nat.add_assoc index, Nat.add_comm 1]

theorem messageTexts_concat (index cur : Nat) (ks : List Nat) (k : Nat) :
    messageTexts cfg m ss index cur (ks ++ [k]) =
      messageTexts cfg m ss index cur ks ++
        [(fragmentText cfg k (metadataLines (index + ks.length) k m) ss (messageCursor cfg m ss index cur ks)).1] := by
  induction ks generalizing index cur with
  | nil => rfl
  | cons j ks ih =>
    rw [List.cons_append, messageTexts, ih, List.length_cons, messageTexts, messageCursor, Nat.add_assoc index,
      Nat.add_comm 1, List.cons_append]

end

/-- The events `log` of a message hold the accepted fragments 0, 1, …, at `shifts`, which end at the symbol `cursor`; whatever events
come after them. -/
structure AcceptedAt (t : State) (shifts : List Nat) (log : List Event) (cursor : Nat) : Prop where
  inRange : ∀ k ∈ shifts, k ≤ 9
  texts : ∀ later, acceptedTexts (log ++ later) = messageTexts t.cfg t.header t.syms 0 0 shifts ++ acceptedTexts later
  cursor : messageCursor t.cfg t.header t.syms 0 0 shifts = cursor

theorem AcceptedAt.failed {t : State} {shifts : List Nat} {log : List Event} {cursor : Nat}
    (h : AcceptedAt t shifts log cursor) (text : Text) : AcceptedAt t shifts (log ++ [.send text, .ack false]) cursor where
  inRange := h.inRange
  texts later := by
    rw [List.append_assoc, h.texts]
    rfl
  cursor := h.cursor

theorem AcceptedAt.accepted {t : State} {shifts : List Nat} {log : List Event} {cursor k n : Nat} {text : Text}
    (h : AcceptedAt t shifts log cursor) (hk : k ≤ 9)
    (hfragment : fragmentText t.cfg k (metadataLines shifts.length k t.header) t.syms cursor = (text, n)) :
    AcceptedAt t (shifts ++ [k]) (log ++ [.send text, .ack true]) (cursor + n) where
  inRange := by
    intro j hj
    obtain hj | hj := List.mem_append.mp hj
    · exact h.inRange j hj
    · exact List.mem_singleton.mp hj ▸ hk
  texts later := by
    rw [List.append_assoc, h.texts, messageTexts_concat, Nat.zero_add, h.cursor, hfragment, List.append_assoc]
    rfl
  cursor := by rw [messageCursor_concat, Nat.zero_add, h.cursor, hfragment]

/-- `r` waits with fragment INDEX of the message of `t`, whose encode began after the events `earlier`, and every fragment before it is
accepted. -/
structure AcceptedBefore (earlier : List Event) (t r : State) (shifts : List Nat) (log : List Event) : Prop where
  sending : r.state = .sending
  cfg : r.cfg = t.cfg
  message : t.SameMessage r
  index : shifts.length = r.index
  accepted : AcceptedAt t shifts log r.cursor
  history : r.txlog = earlier ++ log ++ [.send r.txbuf]

section
variable {earlier log : List Event} {t r : State} {shifts : List Nat} (hr : AcceptedBefore earlier t r shifts log) (h : r.Inv)
include hr h

/-- Acceptance of the waiting fragment, whatever comes of it. -/
theorem AcceptedBefore.acceptedAt :
    AcceptedAt t (shifts ++ [r.shift.toNat]) (log ++ [.send r.txbuf, .ack true]) (r.cursor + r.count) := by
  obtain ⟨⟨-, -, hshift, -, -⟩, -, -⟩ := h.of_sending hr.sending
  obtain ⟨hfragment, -⟩ := h.fragment hr.sending
  rw [hr.cfg, ← hr.index, hr.message.header, hr.message.syms] at hfragment
  exact hr.accepted.accepted hshift hfragment

theorem AcceptedBefore.sendackNext {ok : Bool} (hstill : (r.sendackNext ok).state = .sending) :
    ∃ shifts' log', AcceptedBefore earlier t (r.sendackNext ok) shifts' log' := by
  have hs := hr.sending
  have hmessage := hr.message.trans (sendackNext_sameMessage r ok)
  cases ok with
  | true =>
    rw [sendackNext_true hs] at hstill hmessage ⊢
    obtain ⟨text, n, ht⟩ := h.accepted_sending hs hstill
    rw [ht] at hmessage ⊢
    exact ⟨_, _, hs, hr.cfg, hmessage, by simp [hr.index], hr.acceptedAt h, by simp [hr.history]⟩
  | false =>
    rw [sendackNext_false hs] at hstill hmessage ⊢
    obtain ⟨-, text, ht⟩ := h.rejected_sending hs hstill
    rw [ht] at hmessage ⊢
    exact ⟨_, _, hs, hr.cfg, hmessage, hr.index, hr.accepted.failed r.txbuf, by simp [hr.history]⟩

end

/-- The answers that lead to DONE have every fragment up to INDEX accepted, and the last ends at NSYM. -/
theorem AcceptedBefore.answered_done {earlier log : List Event} {t r : State} {shifts : List Nat} {answers : List Bool}
    (hr : AcceptedBefore earlier t r shifts log) (h : r.Inv) (hdone : (r.answered answers).state = .done) :
    ∃ shifts' log', shifts'.length = (r.answered answers).index + 1 ∧ AcceptedAt t shifts' log' t.nsym ∧
      (r.answered answers).txlog = earlier ++ log' := by
  induction answers generalizing r shifts log with
  | nil =>
    rw [State.answered_nil, hr.sending] at hdone
    cases hdone
  | cons ok answers ih =>
    rw [State.answered_cons] at hdone ⊢
    by_cases hstill : (r.sendackNext ok).state = .sending
    · obtain ⟨shifts', log', hr'⟩ := hr.sendackNext h hstill
      exact ih hr' (sendackNext_inv h ok) hdone
    · obtain ⟨out, ht⟩ := answered_of_not_sending hstill answers
      rw [ht] at hdone ⊢
      obtain hbad | ⟨-, rfl, hlast⟩ | hbad | hbad := sendackNext_state hr.sending ok
      · exact absurd hbad hstill
      · have haccepted := hr.acceptedAt h
        rw [hlast, hr.message.nsym] at haccepted
        rw [sendackNext_true hr.sending, accepted_of_last hlast]
        exact ⟨_, _, by simp [hr.index], haccepted, by simp [hr.history]⟩
      · exact absurd (hbad.symm.trans hdone) nofun
      · exact absurd (hbad.symm.trans hdone) nofun

theorem EncodeBegun.acceptedBefore {earlier : List Event} {t : State} (h : EncodeBegun earlier t) :
    AcceptedBefore earlier t t [] [] where
  sending := h.sending
  cfg := rfl
  message := ⟨rfl, rfl, rfl, rfl, rfl⟩
  index := h.index.symm
  accepted := ⟨nofun, fun _ => rfl, h.cursor.symm⟩
  history := by rw [h.log, List.append_nil]

/-- Settles O50: START has accepted nothing yet, and every answer keeps the account of `AcceptedBefore`. -/
theorem acceptedRangesCover : Obligations.AcceptedRangesCover := by
  intro s s' t operands answers hs hpending hstep hs' hrun hdone
  obtain ⟨hbegun, hcfg, hrun'⟩ := run_startAndAnswers hs hpending hstep hs'
  obtain rfl : t = (s'.answered answers).afterAct [] := by
    rw [hrun] at hrun'
    exact Host.Outcome.next.inj hrun'
  obtain ⟨shifts, log, hlength, haccepted, hlog⟩ := hbegun.acceptedBefore.answered_done hbegun.inv hdone
  have htexts := haccepted.texts []
  rw [List.append_nil] at htexts
  have hevents : eventsSince s ((s'.answered answers).afterAct []) = log := by
    rw [eventsSince, State.afterAct_txlog, hlog]
    exact List.drop_left ..
  rw [← hcfg]
  exact ⟨shifts, hlength, haccepted.inRange, by rw [hevents, htexts, acceptedTexts, List.append_nil], haccepted.cursor⟩

end Sys2Proof.Machine
end

section
/-! PROOFS. What F writes for a finite real, REAL reads back (spec/44_framer.md R99; 30_encoding.md R72). -/

namespace Sys2Proof

/-! ## Rounding a real near a magnitude (00_scope.md R16) -/

/-- The gap below a magnitude is at least its 2^53rd part. -/
theorem unitsOfCode_gap (c : Nat) : unitsOfCode (c + 1) + 2 ^ 53 * unitsOfCode c ≤ 2 ^ 53 * unitsOfCode (c + 1) := by
  obtain ⟨e, f, rfl, hlow, hhigh⟩ := exists_place c
  have hf : f + 1 ≤ 2 ^ 53 := hhigh
  rw [Nat.add_assoc, unitsOfCode_place hlow hhigh.le, unitsOfCode_place (by omega) hhigh]
  have := Nat.mul_le_mul_right (2 ^ e) hf
  rw [Nat.succ_mul] at this ⊢
  omega

/-- The gaps do not shrink as the magnitudes rise. -/
theorem unitsOfCode_convex (c : Nat) : 2 * unitsOfCode (c + 1) ≤ unitsOfCode c + unitsOfCode (c + 2) := by
  obtain ⟨e, f, rfl, hlow, hhigh⟩ := exists_place c
  rw [Nat.add_assoc, Nat.add_assoc, unitsOfCode_place hlow hhigh.le, unitsOfCode_place (by omega) hhigh]
  rcases (show f + 1 ≤ 2 * binade from hhigh).lt_or_eq with hlt | heq
  · rw [unitsOfCode_place (by omega) hlt]
    calc 2 * ((f + 1) * 2 ^ e) = f * 2 ^ e + (f + 2) * 2 ^ e := by ring
      _ ≤ _ := le_rfl
  · have hcode : e * binade + (f + 2) = (e + 1) * binade + (binade + 1) := by rw [Nat.add_mul]; omega
    obtain rfl : f = 2 * binade - 1 := by omega
    rw [hcode, unitsOfCode_place (by omega) (by decide), pow_succ]
    have hone : 0 < 2 ^ e := Nat.two_pow_pos e
    generalize 2 ^ e = p at hone ⊢
    simp only [binade]
    omega

/-- A real strictly between the middles around a magnitude rounds to it. -/
theorem roundUnits_eq_of_between (neg : Bool) {num den c : Nat} (hden : 0 < den)
    (hlow : den * unitsOfCode c + den * unitsOfCode (c + 1) < 2 * num)
    (hhigh : 2 * num < den * unitsOfCode (c + 1) + den * unitsOfCode (c + 2)) :
    roundUnits neg num den = f64OfCode neg (c + 1) := by
  obtain ⟨c', hround, hnear⟩ := roundUnits_nearest neg num hden
  have hmono := (scaledUnits_strictMono hden).monotone
  rw [hround]
  rcases Nat.lt_trichotomy c' (c + 1) with hlt | rfl | hgt
  · have := hnear.above (c + 1) hlt
    have := hmono (Nat.le_of_lt_succ hlt)
    simp only at *
    omega
  · rfl
  · have := hnear.below (c + 1) hgt
    have := hmono (show c + 2 ≤ c' from hgt)
    simp only at *
    omega

/-- A real within half of `unit` of a magnitude rounds to it, where `unit` is less than its 2^53rd part. -/
theorem roundUnits_eq_of_near (neg : Bool) {num den c unit : Nat} (hden : 0 < den)
    (hlow : 2 * (den * unitsOfCode (c + 1)) ≤ 2 * num + unit) (hhigh : 2 * num ≤ 2 * (den * unitsOfCode (c + 1)) + unit)
    (hunit : 2 ^ 53 * unit < den * unitsOfCode (c + 1)) : roundUnits neg num den = f64OfCode neg (c + 1) := by
  have hgap := Nat.mul_le_mul_left den (unitsOfCode_gap c)
  have hconvex := Nat.mul_le_mul_left den (unitsOfCode_convex c)
  rw [Nat.mul_add, Nat.mul_left_comm den, Nat.mul_left_comm den] at hgap
  rw [Nat.mul_add, Nat.mul_left_comm den] at hconvex
  exact roundUnits_eq_of_between neg hden (by omega) (by omega)

theorem f64OfCode_inj {neg : Bool} {c code : Nat} (hcode : code < f64InfCode) (h : f64OfCode neg c = f64OfCode neg code) :
    c = code := by
  rw [f64OfCode_of_lt neg hcode] at h
  by_cases hc : c < f64InfCode
  · rw [f64OfCode_of_lt neg hc] at h
    simpa using h
  · rw [(f64OfCode_eq_inf_iff neg c).mpr (Nat.not_lt.mp hc)] at h
    cases h

/-- The sign has no part in the rounding. -/
theorem roundUnits_sign {num den code : Nat} (hcode : code < f64InfCode)
    (h : roundUnits false num den = f64OfCode false code) (neg : Bool) : roundUnits neg num den = f64OfCode neg code := by
  obtain ⟨c, hc⟩ : ∃ c, ∀ neg, roundUnits neg num den = f64OfCode neg c := ⟨_, fun _ => rfl⟩
  rw [hc, f64OfCode_inj hcode ((hc false).symm.trans h)]

/-- Two ways to write one fraction round alike. -/
theorem roundUnits_congr (neg : Bool) {num den num' den' : Nat} (hden : 0 < den) (hden' : 0 < den')
    (h : num * den' = num' * den) : roundUnits neg num den = roundUnits neg num' den' := by
  rw [← roundUnits_scale hden', ← roundUnits_scale (num := num') hden, h, Nat.mul_comm den]

/-- Zeros at the end of a decimal's digits may be moved to its exponent. -/
theorem F64.ofDecimal_mul_pow (neg : Bool) (m z : Nat) (e : Int) :
    F64.ofDecimal neg (m * 10 ^ z) (e - z) = F64.ofDecimal neg m e := by
  rw [F64.ofDecimal_eq, F64.ofDecimal_eq]
  refine roundUnits_congr neg (pow_pos (by decide) _) (pow_pos (by decide) _) ?_
  have hexp : z + (e - z).toNat + (-e).toNat = e.toNat + (-(e - z)).toNat := by omega
  generalize oneUnits = one
  calc m * 10 ^ z * 10 ^ (e - z).toNat * one * 10 ^ (-e).toNat
      = m * one * 10 ^ (z + (e - z).toNat + (-e).toNat) := by rw [pow_add, pow_add]; ring
    _ = m * 10 ^ e.toNat * one * 10 ^ (-(e - z)).toNat := by rw [hexp, pow_add]; ring

theorem F64.ofDecimal_zero (neg : Bool) (e : Int) : F64.ofDecimal neg 0 e = f64OfCode neg 0 := by
  rw [F64.ofDecimal_eq, Nat.zero_mul, Nat.zero_mul, roundUnits_tiny (pow_pos (by decide) _)]

theorem oneUnits_pos : 0 < oneUnits := pow_pos two_pos 1074

/-! ## The shortest numeral (44_framer.md R99) -/

theorem fractionOfPower_eq (u : Nat) (k : Int) :
    fractionOfPower u k = (u * 10 ^ (-k).toNat, oneUnits * 10 ^ k.toNat) := by
  rw [fractionOfPower]
  split
  · next hk => rw [show (-k).toNat = 0 by omega, pow_zero, Nat.mul_one]
  · next hk => rw [show k.toNat = 0 by omega, pow_zero, Nat.mul_one]

/-- A numeral within half of 10^k of a magnitude reads back as it, where 10^k is less than its 2^53rd part. -/
theorem readsBack_of_near {code d : Nat} {k : Int} (hcode : code ≠ 0)
    (hlow : 2 * (unitsOfCode code * 10 ^ (-k).toNat) ≤ 2 * (d * (oneUnits * 10 ^ k.toNat)) + oneUnits * 10 ^ k.toNat)
    (hhigh : 2 * (d * (oneUnits * 10 ^ k.toNat)) ≤ 2 * (unitsOfCode code * 10 ^ (-k).toNat) + oneUnits * 10 ^ k.toNat)
    (hfine : 2 ^ 53 * (oneUnits * 10 ^ k.toNat) < unitsOfCode code * 10 ^ (-k).toNat) : readsBack code d k = true := by
  obtain ⟨c, rfl⟩ := Nat.exists_eq_succ_of_ne_zero hcode
  rw [readsBack, decide_eq_true_iff, F64.ofDecimal_eq, Nat.mul_assoc, Nat.mul_comm (10 ^ k.toNat)]
  rw [Nat.mul_comm (unitsOfCode _)] at hlow hhigh hfine
  exact roundUnits_eq_of_near false (pow_pos (by decide) _) hlow hhigh hfine

theorem readsBack_of_numeralAt {code d : Nat} {k : Int} (h : numeralAt code k = some d) : readsBack code d k = true := by
  unfold numeralAt at h
  simp only at h
  split at h
  · next hlow =>
    cases h
    exact (Bool.and_eq_true_iff.mp hlow).1
  · split at h
    · next hhigh =>
      cases h
      exact (Bool.and_eq_true_iff.mp hhigh).2
    · cases h

/-- Where 10^k is less than a magnitude's 2^53rd part, the nearer of the two numerals around it reads back. -/
theorem numeralAt_ne_none {code : Nat} {k : Int} (hcode : code ≠ 0)
    (hfine : 2 ^ 53 * (oneUnits * 10 ^ k.toNat) < unitsOfCode code * 10 ^ (-k).toNat) : numeralAt code k ≠ none := by
  have hlow := readsBack_of_near (k := k) (d := unitsOfCode code * 10 ^ (-k).toNat / (oneUnits * 10 ^ k.toNat)) hcode
  have hhigh := readsBack_of_near (k := k) (d := unitsOfCode code * 10 ^ (-k).toNat / (oneUnits * 10 ^ k.toNat) + 1)
    hcode
  have hunit : 0 < oneUnits * 10 ^ k.toNat := Nat.mul_pos oneUnits_pos (pow_pos (by decide) _)
  unfold numeralAt
  simp only [fractionOfPower_eq]
  generalize oneUnits * 10 ^ k.toNat = unit at *
  generalize unitsOfCode code * 10 ^ (-k).toNat = x at *
  have hdiv : x / unit * unit + x % unit = x := Nat.div_add_mod' x unit
  have hlt : x % unit < unit := Nat.mod_lt x hunit
  rw [Nat.add_mul] at hhigh
  by_cases hhalf : 2 * (x % unit) ≤ unit
  · rw [hlow (by omega) (by omega) hfine]
    cases decide (0 < x % unit) && readsBack code (x / unit + 1) k with
    | false => simp
    | true => split <;> simp
  · have hrest : decide (0 < x % unit) = true := decide_eq_true (by omega)
    rw [hhigh (by omega) (by omega) hfine, hrest]
    split <;> simp

/-- A search that meets a numeral within its fuel answers one that reads back. -/
theorem shortestNumeral_readsBack {code fuel j : Nat} {top : Int} (hj : j < fuel) (h : numeralAt code (top - j) ≠ none) :
    readsBack code (shortestNumeral code top fuel).1 (shortestNumeral code top fuel).2 = true := by
  induction fuel generalizing top j with
  | zero => exact absurd hj (Nat.not_lt_zero j)
  | succ fuel ih =>
    rw [shortestNumeral]
    split
    · next d hd => exact readsBack_of_numeralAt hd
    · next hnone =>
      cases j with
      | zero => exact absurd hnone (by simpa using h)
      | succ j => exact ih (Nat.lt_of_succ_lt_succ hj) (by rwa [Int.sub_sub, Int.add_comm 1, ← Nat.cast_succ])

/-! ## Seventeen digits suffice (44_framer.md R99) -/

theorem ten_pow_pred_length_dec_le {n : Nat} (h : n ≠ 0) : 10 ^ ((dec n).length - 1) ≤ n := by
  by_cases hone : (dec n).length - 1 = 0
  · rw [hone]
    exact Nat.pos_of_ne_zero h
  · by_contra hlt
    have := dec_length_le (Nat.pos_of_ne_zero hone) (Nat.not_le.mp hlt)
    omega

theorem oneUnits_le_ten_pow : oneUnits ≤ 10 ^ 324 := by
  calc oneUnits = (2 ^ 93) ^ 11 * 2 ^ 51 := by rw [← pow_mul, ← pow_add]
    _ ≤ (10 ^ 28) ^ 11 * 10 ^ 16 := Nat.mul_le_mul (Nat.pow_le_pow_left (by norm_num) 11) (by norm_num)
    _ = 10 ^ 324 := by rw [← pow_mul, ← pow_add]

/-- A positive magnitude is at least ten to its decimal exponent. -/
theorem ten_pow_decimalExponent_le {u : Nat} (h : u ≠ 0) :
    ∃ n : Nat, decimalExponent u = (n : Int) - 324 ∧ oneUnits * 10 ^ n ≤ u * 10 ^ 324 := by
  have hq : u * 10 ^ 324 / oneUnits ≠ 0 := by
    refine (Nat.div_pos ?_ oneUnits_pos).ne'
    exact oneUnits_le_ten_pow.trans (Nat.le_mul_of_pos_left _ (Nat.pos_of_ne_zero h))
  have hlen := List.length_pos_of_ne_nil (dec_ne_nil (u * 10 ^ 324 / oneUnits))
  refine ⟨(dec (u * 10 ^ 324 / oneUnits)).length - 1, by rw [decimalExponent]; omega, ?_⟩
  rw [Nat.mul_comm]
  exact (Nat.le_div_iff_mul_le oneUnits_pos).mp (ten_pow_pred_length_dec_le hq)

/-- The weight of the seventeenth digit of a magnitude is less than its 2^53rd part. -/
theorem seventeenth_digit_fine {u : Nat} (h : u ≠ 0) {k : Int} (hk : k = decimalExponent u - 16) :
    2 ^ 53 * (oneUnits * 10 ^ k.toNat) < u * 10 ^ (-k).toNat := by
  obtain ⟨n, hn, hle⟩ := ten_pow_decimalExponent_le h
  have hunit : 0 < oneUnits * 10 ^ k.toNat := Nat.mul_pos oneUnits_pos (pow_pos (by decide) _)
  have hpow : 10 ^ n * 10 ^ (-k).toNat = 10 ^ 16 * 10 ^ k.toNat * 10 ^ 324 := by
    rw [← pow_add, ← pow_add, ← pow_add]
    congr 1
    omega
  have hten : 0 < 10 ^ 324 := pow_pos (by decide) 324
  generalize oneUnits = one at hle hunit ⊢
  generalize 10 ^ 324 = big at hle hpow hten
  have hfine : 10 ^ 16 * (one * 10 ^ k.toNat) ≤ u * 10 ^ (-k).toNat := by
    refine Nat.le_of_mul_le_mul_right ?_ hten
    calc 10 ^ 16 * (one * 10 ^ k.toNat) * big = one * 10 ^ n * 10 ^ (-k).toNat := by rw [Nat.mul_assoc one, hpow]; ring
      _ ≤ u * big * 10 ^ (-k).toNat := Nat.mul_le_mul_right _ hle
      _ = u * 10 ^ (-k).toNat * big := Nat.mul_right_comm ..
  have hstep : (2 : Nat) ^ 53 < 10 ^ 16 := by norm_num
  exact (Nat.mul_lt_mul_of_pos_right hstep hunit).trans_le hfine

theorem unitsOfCode_ne_zero {code : Nat} (h : code ≠ 0) : unitsOfCode code ≠ 0 := by
  have := unitsOfCode_strictMono (Nat.pos_of_ne_zero h)
  omega

/-- The digits F writes read back as the value. -/
theorem shortestNumeral_ofDecimal {code : Nat} (h : code ≠ 0) (hcode : code < f64InfCode) (neg : Bool) :
    F64.ofDecimal neg (shortestNumeral code (decimalExponent (unitsOfCode code)) 17).1
        (shortestNumeral code (decimalExponent (unitsOfCode code)) 17).2 = f64OfCode neg code := by
  have hfine := seventeenth_digit_fine (unitsOfCode_ne_zero h) rfl
  have hback := shortestNumeral_readsBack (fuel := 17) (j := 16) (by decide) (numeralAt_ne_none h hfine)
  rw [readsBack, decide_eq_true_iff, F64.ofDecimal_eq] at hback
  rw [F64.ofDecimal_eq]
  exact roundUnits_sign hcode hback neg

/-! ## The layout of the digits (44_framer.md R99) -/

theorem natOfDigits_zeros_append (z : Nat) (t : Text) : natOfDigits (List.replicate z '0' ++ t) = natOfDigits t := by
  simpa [padZeros] using natOfDigits_padZeros (z + t.length) t

theorem natOfDigits_append_zeros (t : Text) (z : Nat) :
    natOfDigits (t ++ List.replicate z '0') = natOfDigits t * 10 ^ z := by
  induction z with
  | zero => simp
  | succ z ih =>
    rw [List.replicate_succ', ← List.append_assoc, natOfDigits, List.foldl_append, ← natOfDigits, ih, pow_succ,
      ← Nat.mul_assoc, Nat.mul_comm _ 10]
    rfl

theorem exists_zeros_dropTrailingZeros (ds : Text) : ∃ z, ds = dropTrailingZeros ds ++ List.replicate z '0' := by
  refine ⟨(ds.reverse.takeWhile fun c => decide (c = '0')).length, ?_⟩
  have hzeros : (ds.reverse.takeWhile fun c => decide (c = '0')) =
      List.replicate (ds.reverse.takeWhile fun c => decide (c = '0')).length '0' :=
    List.eq_replicate_iff.mpr ⟨rfl, fun c hc => by simpa using List.mem_takeWhile_imp hc⟩
  rw [dropTrailingZeros, ← List.reverse_replicate, ← hzeros, ← List.reverse_append, List.takeWhile_append_dropWhile,
    List.reverse_reverse]

/-- A text is an unsigned numeral of m × 10^e: REAL reads it as `fl` of that, with either sign. -/
structure ReadsAs (t : Text) (m : Nat) (e : Int) : Prop where
  unsigned : ∀ neg, parseUnsignedReal neg t =
    if (F64.ofDecimal neg m e).isFinite then some (F64.ofDecimal neg m e) else none
  positive : parseReal t = parseUnsignedReal false t

/-- A numeral by its parts, which may write zeros after the digits of m. -/
theorem ReadsAs.of_parts {whole frac expo t : Text} {m z : Nat} {x e : Int} (ht : t = whole ++ (fractionText frac ++ expo))
    (hne : whole ≠ []) (hdigits : ∀ c ∈ whole ++ frac, isDigit c = true) (hexpo : parseExponent expo = some x)
    (hvalue : natOfDigits (whole ++ frac) = m * 10 ^ z) (he : x - frac.length = e - z) : ReadsAs t m e where
  unsigned neg := by
    rw [ht, parseUnsignedReal_parts neg hne hdigits hexpo, hvalue, he, F64.ofDecimal_mul_pow]
  positive := by
    obtain ⟨c, cs, rfl⟩ := List.exists_cons_of_ne_nil hne
    rw [ht]
    exact parseReal_digit (hdigits c (by simp)) _

theorem isDigit_of_mem_replicate {z : Nat} {c : Char} (h : c ∈ List.replicate z '0') : isDigit c = true :=
  (List.eq_of_mem_replicate h).symm ▸ rfl

/-- The exponent part of the layout reads as the exponent. -/
theorem parseExponent_layout (E : Int) :
    parseExponent ('e' :: (if E < 0 then '-' else '+') :: dec2 E.natAbs) = some E := by
  have hnat : parseNat (dec2 E.natAbs) = some E.natAbs := parseNat_padZeros_dec 2 _
  by_cases hE : E < 0
  · rw [if_pos hE, parseExponent, if_pos (.inl rfl), hnat]
    exact congrArg some (by omega : -(E.natAbs : Int) = E)
  · rw [if_neg hE, parseExponent, if_pos (.inl rfl), hnat]
    exact congrArg some (by omega : (E.natAbs : Int) = E)

/-- Every layout of the digits `ds` with decimal exponent E is a numeral of them, the first with the weight 10^E. -/
theorem floatLayout_readsAs {ds : Text} (hne : ds ≠ []) (hdigits : ∀ c ∈ ds, isDigit c = true) (E : Int) :
    ReadsAs (floatLayout ds E) (natOfDigits ds) (E - ds.length + 1) := by
  have hlen := List.length_pos_of_ne_nil hne
  unfold floatLayout
  simp only
  split
  · next hE =>
    split
    · next hwide =>
      refine .of_parts (whole := ds ++ List.replicate (E - ds.length + 1).toNat '0') (frac := ['0']) (expo := [])
        (z := (E - ds.length + 1).toNat + 1) (x := 0) rfl (by simp [hne]) ?_ rfl ?_ ?_
      · simp only [List.mem_append, List.mem_singleton]
        rintro c ((hc | hc) | rfl)
        · exact hdigits c hc
        · exact isDigit_of_mem_replicate hc
        · rfl
      · rw [List.append_assoc, ← List.replicate_succ', natOfDigits_append_zeros]
      · simp only [List.length_singleton]
        omega
    · next hnarrow =>
      split
      · next hpos =>
        have hfrac : ds.drop (E + 1).toNat ≠ [] := by
          rw [Ne, List.drop_eq_nil_iff]
          omega
        refine .of_parts (whole := ds.take (E + 1).toNat) (frac := ds.drop (E + 1).toNat) (expo := []) (z := 0) (x := 0)
          (by simp [fractionText, hfrac]) ?_ (by rwa [List.take_append_drop]) rfl
          (by rw [List.take_append_drop, pow_zero, Nat.mul_one]) ?_
        · rw [Ne, List.take_eq_nil_iff]
          rintro (h | h)
          · omega
          · exact hne h
        · rw [List.length_drop]
          omega
      · next hneg =>
        refine .of_parts (whole := ['0']) (frac := List.replicate (-E - 1).toNat '0' ++ ds) (expo := []) (z := 0) (x := 0)
          (by simp [fractionText, hne]) (List.cons_ne_nil _ _) ?_ rfl ?_ ?_
        · simp only [List.mem_append, List.mem_singleton]
          rintro c (rfl | hc | hc)
          · rfl
          · exact isDigit_of_mem_replicate hc
          · exact hdigits c hc
        · rw [← List.append_assoc, ← List.replicate_one, List.replicate_append_replicate, natOfDigits_zeros_append,
            pow_zero, Nat.mul_one]
        · rw [List.length_append, List.length_replicate]
          omega
  · refine .of_parts (whole := ds.take 1) (frac := ds.drop 1) (z := 0) ?_ (by simp [hne])
      (by rwa [List.take_append_drop]) (parseExponent_layout E) (by rw [List.take_append_drop, pow_zero, Nat.mul_one]) ?_
    · have hfrac : (if (1 : Int) < ds.length then '.' :: ds.drop 1 else []) = fractionText (ds.drop 1) := by
        rw [fractionText]
        by_cases hone : ds.length ≤ 1
        · rw [if_neg (by omega), if_pos (List.drop_eq_nil_iff.mpr hone)]
        · rw [if_pos (by omega), if_neg (by rw [List.drop_eq_nil_iff]; exact hone)]
      rw [hfrac]
      split <;> simp
    · rw [List.length_drop]
      omega

/-! ## F (44_framer.md R99) -/

/-- The digits of d, its trailing zeros dropped, laid out with the exponent of the first digit of d × 10^k, are a numeral of that
decimal. -/
theorem floatLayout_dec_readsAs {d : Nat} (hd : d ≠ 0) (k : Int) :
    ∃ m e, ReadsAs (floatLayout (dropTrailingZeros (dec d)) (k + ((dec d).length : Int) - 1)) m e ∧
      ∀ neg, F64.ofDecimal neg m e = F64.ofDecimal neg d k := by
  obtain ⟨z, hz⟩ := exists_zeros_dropTrailingZeros (dec d)
  generalize dropTrailingZeros (dec d) = ds at hz ⊢
  have hvalue : natOfDigits ds * 10 ^ z = d := by rw [← natOfDigits_append_zeros, ← hz, natOfDigits_dec]
  have hlen := congrArg List.length hz
  rw [List.length_append, List.length_replicate] at hlen
  have hdigits : ∀ c ∈ ds, isDigit c = true := fun c hc =>
    List.all_eq_true.mp (dec_all_isDigit d) c (hz ▸ List.mem_append_left _ hc)
  have hne : ds ≠ [] := by
    rintro rfl
    exact hd (hvalue.symm.trans (Nat.zero_mul _))
  refine ⟨_, _, floatLayout_readsAs hne hdigits _, fun neg => ?_⟩
  rw [← F64.ofDecimal_mul_pow neg _ z, hvalue]
  congr 1
  omega

/-- The text of a positive magnitude is a numeral that reads back as it. -/
theorem floatDigits_readsAs {code : Nat} (h : code ≠ 0) (hcode : code < f64InfCode) :
    ∃ m e, ReadsAs (floatDigits code) m e ∧ ∀ neg, F64.ofDecimal neg m e = f64OfCode neg code := by
  have hback := shortestNumeral_ofDecimal h hcode
  rw [floatDigits]
  generalize shortestNumeral code (decimalExponent (unitsOfCode code)) 17 = num at hback
  have hne : num.1 ≠ 0 := by
    intro hzero
    have hbad := hback false
    rw [hzero, F64.ofDecimal_zero] at hbad
    exact h (f64OfCode_inj hcode hbad).symm
  obtain ⟨m, e, hreads, hvalue⟩ := floatLayout_dec_readsAs hne num.2
  exact ⟨m, e, hreads, fun neg => (hvalue neg).trans (hback neg)⟩

/-- F of a finite value reads back with its sign. -/
theorem parseReal_floatText (s : Bool) (m : Fin f64InfCode) : parseReal (floatText (.fin s m)) = some (.fin s m) := by
  obtain ⟨t, ht, d, e, hreads, hvalue⟩ : ∃ t, floatText (.fin s m) = (if s then ['-'] else []) ++ t ∧
      ∃ d e, ReadsAs t d e ∧ ∀ neg, F64.ofDecimal neg d e = f64OfCode neg m.val := by
    refine ⟨_, rfl, ?_⟩
    by_cases hm : m.val = 0
    · rw [if_pos hm, hm]
      exact ⟨0, 0, floatLayout_readsAs (ds := ['0']) (List.cons_ne_nil _ _) (by simp [isDigit]) 0,
        fun neg => F64.ofDecimal_zero neg 0⟩
    · rw [if_neg hm]
      exact floatDigits_readsAs hm m.isLt
  have hunsigned := hreads.unsigned s
  rw [hvalue, f64OfCode_of_lt s m.isLt] at hunsigned
  rw [ht]
  cases s with
  | false => exact hreads.positive.trans hunsigned
  | true => exact hunsigned

/-- Settles O35: a numeral of at most seventeen digits reads back (`shortestNumeral_ofDecimal`), and every layout of its digits is a
numeral of the same decimal (`floatLayout_readsAs`). -/
theorem realsReadBack : Obligations.RealsReadBack := by
  intro x hx
  cases x with
  | fin s m => exact parseReal_floatText s m
  | inf _ => cases hx
  | nan => cases hx

end Sys2Proof
end

section
/-! PROOFS. Lines and the surviving lines of a corpus (spec/45_reassembler.md R122, R123, R131). -/

namespace Sys2Proof

/-! ## The pieces of a text -/

section
variable (c : Char)

theorem splitText_cons_of_ne {x : Char} (hx : x ≠ c) (t : Text) :
    ∃ p ps, splitText c t = p :: ps ∧ splitText c (x :: t) = (x :: p) :: ps := by
  obtain ⟨p, ps, hp⟩ := List.exists_cons_of_ne_nil (splitText_ne_nil c t)
  exact ⟨p, ps, hp, by simp [splitText, hx, hp]⟩

theorem splitText_cons_self (t : Text) : splitText c (c :: t) = [] :: splitText c t := if_pos rfl

theorem splitText_append_sep (a b : Text) : splitText c (a ++ c :: b) = splitText c a ++ splitText c b := by
  induction a with
  | nil => exact splitText_cons_self c b
  | cons x xs ih =>
    by_cases hx : x = c
    · rw [hx, List.cons_append, splitText_cons_self, splitText_cons_self, ih, List.cons_append]
    · obtain ⟨p, ps, hxs, hcons⟩ := splitText_cons_of_ne c hx xs
      obtain ⟨q, qs, happend, hcons'⟩ := splitText_cons_of_ne c hx (xs ++ c :: b)
      rw [ih, hxs, List.cons_append] at happend
      obtain ⟨rfl, rfl⟩ := List.cons.inj happend
      rw [List.cons_append, hcons', hcons, List.cons_append]

theorem splitText_length (t : Text) : (splitText c t).length = t.count c + 1 := by
  induction t with
  | nil => rfl
  | cons x xs ih =>
    by_cases hx : x = c
    · rw [hx, splitText_cons_self, List.length_cons, ih, List.count_cons_self]
    · obtain ⟨p, ps, hxs, hcons⟩ := splitText_cons_of_ne c hx xs
      rw [hcons, List.length_cons, List.count_cons_of_ne hx, ← ih, hxs, List.length_cons]

theorem notMem_of_mem_splitText (t : Text) : ∀ p ∈ splitText c t, c ∉ p := by
  induction t with
  | nil => simp [splitText]
  | cons x xs ih =>
    by_cases hx : x = c
    · rw [hx, splitText_cons_self]
      exact List.forall_mem_cons.mpr ⟨List.not_mem_nil, ih⟩
    · obtain ⟨p, ps, hxs, hcons⟩ := splitText_cons_of_ne c hx xs
      rw [hxs] at ih
      obtain ⟨hp, hps⟩ := List.forall_mem_cons.mp ih
      rw [hcons]
      exact List.forall_mem_cons.mpr ⟨by simp [Ne.symm hx, hp], hps⟩

/-- Joining undoes splitting. -/
theorem joinTexts_splitText (t : Text) : joinTexts [c] (splitText c t) = t := by
  induction t with
  | nil => rfl
  | cons x xs ih =>
    by_cases hx : x = c
    · rw [hx, splitText_cons_self, joinTexts_cons _ _ (splitText_ne_nil c xs), ih]
      rfl
    · obtain ⟨p, ps, hxs, hcons⟩ := splitText_cons_of_ne c hx xs
      rw [hxs] at ih
      rw [hcons, ← ih]
      cases ps <;> rfl

end

/-! ## Lines (45_reassembler.md R122) -/

theorem linesOf_append_nl (a b : Text) : linesOf (a ++ nl :: b) = linesOf a ++ linesOf b := by
  rw [linesOf, splitText_append_sep, List.map_append]
  rfl

end Sys2Proof

namespace Sys2Proof.Machine

/-! ## RAWSPLIT (45_reassembler.md R123) -/

/-- Settles O52: Lines cuts the text at its NLs (`splitText_length`, `splitText_joinTexts`), and every text is the join of its pieces. -/
theorem rawsplitResult : Obligations.RawsplitResult := by
  refine ⟨fun s hlegal => ?_, fun t => ?_, fun ls hne hls => ?_,
    fun t => ⟨splitText nl t, splitText_ne_nil nl t, notMem_of_mem_splitText nl t, (joinTexts_splitText nl t).symm⟩⟩
  · simp only [Bool.decide_and]
    exact datapath_ok hlegal _
  · rw [linesOf, List.length_map]
    exact splitText_length nl t
  · exact congrArg (List.map stripCr) (splitText_joinTexts hne hls)

/-- The surviving lines of a corpus are those of its texts, one text after another. -/
theorem survivingLines_eq_flatMap (ts : List Text) : survivingLines ts = ts.flatMap fun t => survivingLines [t] := by
  induction ts with
  | nil => rfl
  | cons t ts ih =>
    by_cases hts : ts = []
    · rw [hts]
      exact (List.append_nil _).symm
    · rw [List.flatMap_cons, ← ih, survivingLines, joinTexts_cons _ _ hts, List.append_assoc, List.singleton_append,
        linesOf_append_nl, List.filter_append]
      rfl

theorem survivingLines_append_nl (a b : Text) : survivingLines [a ++ nl :: b] = survivingLines [a, b] := by
  rw [survivingLines, survivingLines, joinTexts, joinTexts, List.append_assoc]
  rfl

theorem survivingLines_nil : survivingLines [[]] = [] := rfl

theorem survivingLines_endToken : survivingLines [endToken] = [] := rfl

/-- What stands after the last NL of a fragment leaves no surviving line, be it END or nothing (45_reassembler.md R131). -/
theorem survivingLines_append_tail (t : Text) {tail : Text} (htail : tail = [] ∨ tail = endToken) :
    survivingLines [t ++ [nl] ++ tail] = survivingLines [t] := by
  have hnone : survivingLines [tail] = [] := by
    obtain rfl | rfl := htail
    · exact survivingLines_nil
    · exact survivingLines_endToken
  rw [List.append_assoc, List.singleton_append, survivingLines_append_nl, survivingLines_eq_flatMap]
  simp [hnone]

/-! ## A pure command by its result -/

theorem datapath_map_ok {α : Type} {s : State} (h : s.cfg.legal = true) (f : α → Value) {r : Except Err α} {x : α}
    (hr : r = .ok x) : datapath s (f <$> r) = .next { s with out := .ok (f x) } := by
  rw [hr]
  exact datapath_ok h (f x)

theorem datapath_map_error {α : Type} {s : State} (h : s.cfg.legal = true) (f : α → Value) {r : Except Err α} {e : Err}
    (hr : r = .error e) : datapath s (f <$> r) = .next { s with out := .err e } := by
  rw [hr]
  exact datapath_error h e

/-! ## END (45_reassembler.md R131) -/

theorem exec_decode (s : State) : exec .decode s = datapath s (Value.field <$> decodeCorpus s.cfg s.port.ts) := by
  rw [map_eq_pure_bind]
  rfl

/-- DECODE reads of a corpus its surviving lines alone. -/
theorem decodeCorpus_congr (cfg : Cfg) {ts ts' : List Text} (h : survivingLines ts = survivingLines ts') :
    decodeCorpus cfg ts = decodeCorpus cfg ts' := by
  rw [decodeCorpus, h]
  rfl

/-- Settles O53: the two corpora have the same surviving lines (`survivingLines_append_tail`). -/
theorem endHasNoEffect : Obligations.EndHasNoEffect := by
  intro s r before after text hlegal hcfg hwith hwithout
  have hlines : survivingLines r.port.ts = survivingLines s.port.ts := by
    have hend := survivingLines_append_tail text (.inr rfl)
    have hnil := survivingLines_append_tail text (.inl rfl)
    rw [List.append_nil] at hnil
    rw [hwith, hwithout, survivingLines_eq_flatMap, survivingLines_eq_flatMap (before ++ _)]
    simp only [List.flatMap_append, List.flatMap_cons, hend, hnil]
  have hresult : decodeCorpus r.cfg r.port.ts = decodeCorpus s.cfg s.port.ts := by
    rw [hcfg, decodeCorpus_congr s.cfg hlines]
  rw [exec_decode s, exec_decode r, hresult]
  exact ⟨_, datapath_next_iff.mpr ⟨hlegal, (s.finish_frame _).symm⟩,
    datapath_next_iff.mpr ⟨hcfg ▸ hlegal, (s.finish_congr r _).symm⟩⟩

end Sys2Proof.Machine
end

section
/-! PROOFS. AXES, PARSEHDR and PARSEFRAG (spec/45_reassembler.md R124, R125, R127). -/

namespace Sys2Proof

/-! ## List lines (30_encoding.md R72) -/

/-- Tokens without a comma, joined by commas, are read one by one. -/
theorem parseList_joinTexts {α : Type} (read : Text → Option α) {ts : List Text} (hne : ts ≠ []) (h : ∀ t ∈ ts, ',' ∉ t) :
    parseList read (joinTexts [','] ts) = ts.mapM read := by
  rw [parseList, splitText_joinTexts hne h]

theorem notMem_of_all {allowed : Char → Bool} {c : Char} (hc : allowed c = false) {t : Text} (h : t.all allowed = true) :
    c ∉ t := fun hmem => Bool.false_ne_true (hc.symm.trans (List.all_eq_true.mp h c hmem))

theorem padZeros_dec_all_isDigit (width n : Nat) : (padZeros width (dec n)).all isDigit = true := by
  rw [padZeros, List.all_append, dec_all_isDigit, Bool.and_true, List.all_replicate]
  split <;> rfl

theorem replicate_append_dec (i n : Nat) : List.replicate i '0' ++ dec n = padZeros (i + (dec n).length) (dec n) := by
  rw [padZeros, Nat.add_sub_cancel]

theorem F64.not_lt_of_le {a b : F64} (h : F64.le a b = true) : F64.lt b a = false := by
  obtain ⟨x, y, hx, hy, hxy⟩ := F64.le_iff.mp h
  refine Bool.eq_false_iff.mpr fun hlt => ?_
  obtain ⟨y', x', hy', hx', hyx⟩ := F64.lt_iff.mp hlt
  rw [hx] at hx'
  rw [hy] at hy'
  cases hx'
  cases hy'
  omega

end Sys2Proof

namespace Sys2Proof.Machine

/-! ## AXES (45_reassembler.md R127) -/

section
variable {cfg : Cfg} {lo hi step : F64}

/-- AXES has a point count exactly for an axis: finite bounds, a finite positive step, a finite quotient and a count of at least 1. -/
theorem axisCount_eq_some_iff {n : Nat} :
    axisCount cfg lo hi step = some n ↔
      lo.isFinite = true ∧ hi.isFinite = true ∧ step.isFinite = true ∧ F64.lt F64.zero step = true ∧
        ∃ sg m, F64.div (F64.sub hi lo) step = .fin sg m ∧ (n : Int) = roundI cfg.roundTies sg m.val + 1 ∧ 1 ≤ n := by
  unfold axisCount
  split
  · next hdomain =>
    simp only [Bool.and_eq_true, and_assoc] at hdomain
    obtain ⟨hlo, hhi, hstep, hpos⟩ := hdomain
    simp only [hlo, hhi, hstep, hpos, true_and]
    cases F64.div (F64.sub hi lo) step with
    | nan => simp
    | inf sg => simp
    | fin sg m =>
      simp only [Option.ite_none_left_eq_some, Option.some.injEq, F64.fin.injEq]
      constructor
      · rintro ⟨hcount, rfl⟩
        exact ⟨sg, m, ⟨rfl, rfl⟩, by omega, by omega⟩
      · rintro ⟨_, _, ⟨rfl, rfl⟩, hcount, hn⟩
        exact ⟨by omega, by omega⟩
  · next hdomain =>
    simp only [Bool.and_eq_true, and_assoc] at hdomain
    refine ⟨nofun, fun ⟨hlo, hhi, hstep, hpos, _⟩ => absurd ⟨hlo, hhi, hstep, hpos⟩ hdomain⟩

theorem regenerateAxis_of_count {n : Nat} (h : axisCount cfg lo hi step = some n) :
    regenerateAxis cfg lo hi step = some (axisPoints lo hi n) := by
  rw [regenerateAxis, h]
  rfl

theorem regenerateAxis_eq_none (h : ∀ n, axisCount cfg lo hi step ≠ some n) : regenerateAxis cfg lo hi step = none := by
  rw [regenerateAxis, Option.eq_none_iff_forall_ne_some.mpr h]
  rfl

end

section
variable (lo hi : F64) {n : Nat}

theorem axisPoints_length : (axisPoints lo hi n).length = n := by
  unfold axisPoints
  split
  · next hone => exact hone.symm
  · rw [List.length_map, List.length_range]

theorem axisPoints_last (hn : 1 ≤ n) : (axisPoints lo hi n)[n - 1]? = some (if n = 1 then lo else hi) := by
  unfold axisPoints
  split
  · next hone => rw [hone]; rfl
  · rw [List.getElem?_map, List.getElem?_range (by omega)]
    exact congrArg some (if_pos rfl)

theorem axisPoints_inner {i : Nat} (hi' : i + 1 < n) :
    (axisPoints lo hi n)[i]? =
      some (F64.add (F64.mul (F64.ofInt i) (F64.div (F64.sub hi lo) (F64.ofInt ((n : Int) - 1)))) lo) := by
  have hcast : ((n - 1 : Nat) : Int) = (n : Int) - 1 := by omega
  rw [axisPoints, if_neg (by omega), List.getElem?_map, List.getElem?_range (by omega), ← hcast]
  exact congrArg some (if_neg (by omega))

end

theorem exec_axes (s : State) :
    exec .axes s =
      datapath s (Value.axis <$> orHeader .axis (regenerateAxis s.cfg s.port.lo s.port.hi s.port.step)) := by
  rw [map_eq_pure_bind]
  rfl

/-- Settles O57: `axisCount_eq_some_iff` says when there is an axis, and the points are those of `axisPoints`. -/
theorem axesResult : Obligations.AxesResult := by
  intro s hlegal
  rw [exec_axes]
  refine ⟨fun sg m n hlo hhi hstep hpos hr hn hn1 => ?_, fun hbad => ?_⟩
  · have hcount := axisCount_eq_some_iff.mpr ⟨hlo, hhi, hstep, hpos, sg, m, hr, hn, hn1⟩
    refine ⟨_, datapath_map_ok hlegal _ ?_, axisPoints_length _ _, axisPoints_last _ _ hn1, fun i => axisPoints_inner _ _⟩
    rw [regenerateAxis_of_count hcount]
    rfl
  · refine datapath_map_error hlegal _ ?_
    rw [regenerateAxis_eq_none]
    · rfl
    intro n hcount
    obtain ⟨hlo, hhi, hstep, hpos, sg, m, hr, hn, hn1⟩ := axisCount_eq_some_iff.mp hcount
    obtain hbad | hbad | hbad | hbad | hbad | ⟨_, _, hr', hbad⟩ := hbad
    · exact Bool.false_ne_true (hbad.symm.trans hlo)
    · exact Bool.false_ne_true (hbad.symm.trans hhi)
    · exact Bool.false_ne_true (hbad.symm.trans hstep)
    · exact Bool.false_ne_true ((F64.not_lt_of_le hbad).symm.trans hpos)
    · rw [hr] at hbad
      cases hbad
    · rw [hr] at hr'
      cases hr'
      omega

/-! ## PARSEHDR (45_reassembler.md R124) -/

section
variable {t : Text}

theorem parseFour_eq_none (h : ∀ a b c d, parseList parseReal t ≠ some [a, b, c, d]) : parseFour t = none := by
  unfold parseFour
  split
  · next heq => exact absurd heq (h _ _ _ _)
  · rfl

theorem parseFour_eq_some {a b c d : F64} (h : parseList parseReal t = some [a, b, c, d]) :
    parseFour t = some (a, b, c, d) := by
  rw [parseFour, h]

theorem parseTwo_eq_none (h : ∀ a b, parseList parseReal t ≠ some [a, b]) : parseTwo t = none := by
  unfold parseTwo
  split
  · next heq => exact absurd heq (h _ _)
  · rfl

theorem parseTwo_eq_some {a b : F64} (h : parseList parseReal t = some [a, b]) : parseTwo t = some (a, b) := by
  rw [parseTwo, h]

theorem parseShift_eq_none (h : ∀ k, parseNat t = some k → 10 ≤ k) : parseShift t = none := by
  rw [parseShift, Option.filter_eq_none_iff]
  intro k hk
  have := h k hk
  simp only [decide_eq_true_eq]
  omega

theorem parseShift_eq_some {k : Nat} (h : parseNat t = some k) (hk : k ≤ 9) : parseShift t = some k := by
  rw [parseShift, h]
  exact Option.filter_some_pos (decide_eq_true hk)

end

@[simp] theorem orHeader_some {α : Type} (reason : HeaderReason) (x : α) : orHeader reason (some x) = .ok x := rfl

@[simp] theorem orHeader_none {α : Type} (reason : HeaderReason) :
    orHeader (α := α) reason none = .error (.malformedHeader reason) := rfl

theorem parseHeader_short (cfg : Cfg) {ls : List Text} (h : ls.length < 6) :
    parseHeader cfg ls = .error (.malformedHeader .lineCount) := by
  unfold parseHeader
  split
  · simp only [List.length_cons] at h
    omega
  · rfl

theorem exec_parsehdr (s : State) : exec .parsehdr s = datapath s (Value.header <$> parseHeader s.cfg s.port.ls) := by
  rw [map_eq_pure_bind]
  rfl

/-- Settles O54: each line is read in turn, and the first that is not is the error. -/
theorem parsehdrResult : Obligations.ParsehdrResult := by
  intro s hlegal
  rw [exec_parsehdr]
  refine ⟨fun hshort => datapath_map_error hlegal _ (parseHeader_short s.cfg hshort), fun l1 l2 l3 l4 l5 l6 more hls => ?_⟩
  rw [hls, parseHeader]
  refine ⟨fun h1 => datapath_map_error hlegal _ ?_, fun hours h1 => ?_⟩
  · rw [h1]
    rfl
  rw [h1]
  refine ⟨fun h2 => datapath_map_error hlegal _ ?_, fun base h2 => ?_⟩
  · rw [h2]
    rfl
  rw [h2]
  refine ⟨fun h3 => datapath_map_error hlegal _ ?_, fun a b c d h3 => ?_⟩
  · rw [parseFour_eq_none h3]
    rfl
  rw [parseFour_eq_some h3]
  refine ⟨fun h4 => datapath_map_error hlegal _ ?_, fun x y h4 => ?_⟩
  · rw [parseTwo_eq_none h4]
    rfl
  rw [parseTwo_eq_some h4]
  refine ⟨fun h5 => datapath_map_error hlegal _ ?_, fun k h5 hk => ?_⟩
  · rw [parseShift_eq_none h5]
    rfl
  rw [parseShift_eq_some h5 hk]
  refine ⟨fun hlat => datapath_map_error hlegal _ ?_, fun lat hlat => ?_⟩
  · simp [hlat, bind, Except.bind]
  refine ⟨fun hlon => datapath_map_error hlegal _ ?_, fun lon hlon => datapath_map_ok hlegal _ ?_⟩
  · simp [hlat, hlon, bind, Except.bind]
  · simp [hlat, hlon, bind, Except.bind, pure, Except.pure]

/-! ## PARSEFRAG (45_reassembler.md R125) -/

section
variable {t : Text}

theorem parseIndexShift_eq_none (h : ∀ n k, parseList parseNat t ≠ some [n, k]) : parseIndexShift t = none := by
  unfold parseIndexShift
  split
  · next heq => exact absurd heq (h _ _)
  · rfl

theorem parseIndexShift_eq_some {n k : Nat} (h : parseList parseNat t = some [n, k]) : parseIndexShift t = some (n, k) := by
  rw [parseIndexShift, h]

end

theorem parseFragment_short {ls : List Text} (h : ls.length < 2) : parseFragment ls = .error (.malformedFragment .unpaired) := by
  unfold parseFragment
  split
  · simp only [List.length_cons] at h
    omega
  · rfl

section
variable {line : Text} (payload : Text) (more : List Text)

theorem parseFragment_metadata (h : parseIndexShift line = none) :
    parseFragment (line :: payload :: more) = .error (.malformedFragment .metadata) := by
  rw [parseFragment, h]

variable {n k : Nat} (h : parseIndexShift line = some (n, k))
include h

theorem parseFragment_ok (hn : 1 ≤ n) (hk : k ≤ 9) : parseFragment (line :: payload :: more) = .ok ⟨n, k, payload⟩ := by
  rw [parseFragment, h]
  exact (if_neg (by omega)).trans (if_neg (by omega))

theorem parseFragment_index (hn : n = 0) :
    parseFragment (line :: payload :: more) = .error (.malformedFragment .index) := by
  rw [parseFragment, h]
  exact if_pos hn

theorem parseFragment_shift (hn : 1 ≤ n) (hk : 10 ≤ k) :
    parseFragment (line :: payload :: more) = .error (.malformedFragment .shift) := by
  rw [parseFragment, h]
  exact (if_neg (by omega)).trans (if_pos (by omega))

end

/-- Two numerals and a comma, with any zeros in front of each, are read as the two numbers (30_encoding.md R69, R72). -/
theorem parseList_two_numerals (i j n k : Nat) :
    parseList parseNat (padZeros i (dec n) ++ [','] ++ padZeros j (dec k)) = some [n, k] := by
  have hcomma (w m : Nat) : ',' ∉ padZeros w (dec m) := notMem_of_all rfl (padZeros_dec_all_isDigit w m)
  have hread := parseList_joinTexts parseNat (ts := [padZeros i (dec n), padZeros j (dec k)]) (List.cons_ne_nil _ _)
    (by simp [hcomma])
  rw [joinTexts, joinTexts_one] at hread
  rw [hread]
  simp [parseNat_padZeros_dec]

theorem exec_parsefrag (s : State) : exec .parsefrag s = datapath s (Value.dataFragment <$> parseFragment s.port.ls) := by
  rw [map_eq_pure_bind]
  rfl

/-- Settles O55: the line's reading decides among the record and the reasons, and zeros in front of a numeral read away. -/
theorem parsefragResult : Obligations.ParsefragResult := by
  refine ⟨fun s hlegal => ?_, fun n k i j => ?_⟩
  · rw [exec_parsefrag]
    refine ⟨fun hshort => datapath_map_error hlegal _ (parseFragment_short hshort), fun line payload more hls => ?_⟩
    rw [hls]
    refine ⟨fun hbad => datapath_map_error hlegal _ (parseFragment_metadata payload more (parseIndexShift_eq_none hbad)),
      fun n k hline => ?_⟩
    have hread := parseIndexShift_eq_some hline
    exact ⟨fun hn hk => datapath_map_ok hlegal _ (parseFragment_ok payload more hread hn hk),
      fun hn => datapath_map_error hlegal _ (parseFragment_index payload more hread hn),
      fun hn hk => datapath_map_error hlegal _ (parseFragment_shift payload more hread hn hk)⟩
  · rw [replicate_append_dec, List.append_assoc, replicate_append_dec]
    exact parseList_two_numerals _ _ n k

end Sys2Proof.Machine
end

section
/-! PROOFS. REASM (spec/45_reassembler.md R126, R130). -/

namespace Sys2Proof.Machine

/-! ## Repeated indices -/

section
variable {ns : List Nat}

theorem smallestRepeated_of_nodup (h : ns.Nodup) : smallestRepeated ns = none := by
  have hnone : (ns.filter fun n => decide (1 < ns.count n)) = [] := by
    refine List.filter_eq_nil_iff.mpr fun n _ => ?_
    have := List.nodup_iff_count_le_one.mp h n
    simpa using this
  rw [smallestRepeated, hnone]
  rfl

theorem smallestRepeated_eq_some {n : Nat} (h : 1 < ns.count n) (hleast : ∀ m < n, ns.count m ≤ 1) :
    smallestRepeated ns = some n := by
  refine List.min?_eq_some_iff.mpr ⟨?_, fun m hm => ?_⟩
  · exact List.mem_filter.mpr ⟨List.count_pos_iff.mp (by omega), decide_eq_true h⟩
  · have hcount := of_decide_eq_true (List.mem_filter.mp hm).2
    by_contra hlt
    have := hleast m (by omega)
    omega

end

/-! ## Sorting by index -/

/-- The order REASM sorts by. -/
abbrev indexLe (f g : DataFragment) : Prop := f.index ≤ g.index

theorem insertByIndex_eq_orderedInsert (f : DataFragment) (gs : List DataFragment) :
    insertByIndex f gs = gs.orderedInsert indexLe f := by
  induction gs with
  | nil => rfl
  | cons g gs ih => rw [insertByIndex, List.orderedInsert_cons, ih]

theorem sortByIndex_eq_insertionSort (fs : List DataFragment) : sortByIndex fs = fs.insertionSort indexLe := by
  induction fs with
  | nil => rfl
  | cons f fs ih => rw [sortByIndex, List.insertionSort_cons, ih, insertByIndex_eq_orderedInsert]

theorem sortByIndex_perm (fs : List DataFragment) : (sortByIndex fs).Perm fs := by
  rw [sortByIndex_eq_insertionSort]
  exact List.perm_insertionSort indexLe fs

theorem sortByIndex_pairwise (fs : List DataFragment) : (sortByIndex fs).Pairwise indexLe := by
  have : Std.Total indexLe := ⟨fun f g => Nat.le_total f.index g.index⟩
  have : IsTrans DataFragment indexLe := ⟨fun _ _ _ => Nat.le_trans⟩
  rw [sortByIndex_eq_insertionSort]
  exact List.pairwise_insertionSort indexLe fs

/-- Fragments with distinct indices are sorted strictly. -/
theorem sortByIndex_strict {fs : List DataFragment} (h : (fs.map DataFragment.index).Nodup) :
    (sortByIndex fs).Pairwise fun f g => f.index < g.index := by
  have hne : (sortByIndex fs).Pairwise fun f g => f.index ≠ g.index :=
    List.pairwise_map.mp (((sortByIndex_perm fs).map DataFragment.index).nodup_iff.mpr h)
  exact (sortByIndex_pairwise fs).imp₂ (fun f g hle hne => Nat.lt_of_le_of_ne hle hne) hne

/-- Any arrival order of strictly ascending fragments is sorted back to them. -/
theorem sortByIndex_eq_of_perm {fs gs : List DataFragment} (hperm : fs.Perm gs)
    (hgs : gs.Pairwise fun f g => f.index < g.index) : sortByIndex fs = gs := by
  have hnodup : (fs.map DataFragment.index).Nodup :=
    (hperm.map DataFragment.index).nodup_iff.mpr (List.pairwise_map.mpr (hgs.imp Nat.ne_of_lt))
  exact List.Perm.eq_of_pairwise (fun f g _ _ hfg hgf => absurd hfg (Nat.lt_asymm hgf)) (sortByIndex_strict hnodup) hgs
    ((sortByIndex_perm fs).trans hperm)

/-! ## The bits of the payloads -/

section
variable {cfg : Cfg}

theorem payloadBits_of_ok {k : Nat} {payload : Text} {ss : List Sym} (index : Nat)
    (h : decodeText cfg payload k = .ok ss) : payloadBits cfg index k payload = .ok (symbolBits ss) := by
  rw [payloadBits, h]

theorem payloadBits_of_error {k p : Nat} {payload : Text} {reason : AlphabetReason} (index : Nat)
    (h : decodeText cfg payload k = .error (p, reason)) :
    payloadBits cfg index k payload = .error (.alphabetError (some index) p reason) := by
  rw [payloadBits, h]

theorem decodeText_encodeText_same (h : cfg.legal = true) (ss : List Sym) {k : Nat} (hk : k ≤ 9) :
    decodeText cfg (encodeText cfg ss k) k = .ok ss := by
  rw [decodeText_encodeText h ss k hk, List.map_congr_left fun x _ => readAt_same k x, List.map_id']

/-- The fragments of a message, each with its index, its shift and its symbols, give the bits of all its symbols in order. -/
theorem joinPayloads_of_message (h : cfg.legal = true) {message : List (Nat × Nat × List Sym)}
    (hshifts : ∀ f ∈ message, f.2.1 ≤ 9) :
    joinPayloads cfg (message.map fun f => ⟨f.1, f.2.1, encodeText cfg f.2.2 f.2.1⟩) =
      .ok (symbolBits (message.flatMap fun f => f.2.2)) := by
  induction message with
  | nil => rfl
  | cons f message ih =>
    obtain ⟨hf, hmessage⟩ := List.forall_mem_cons.mp hshifts
    rw [List.map_cons, joinPayloads, payloadBits_of_ok _ (decodeText_encodeText_same h f.2.2 hf), ih hmessage,
      List.flatMap_cons, symbolBits_append]

/-- The first fragment that fails to decode is the error. -/
theorem joinPayloads_of_error {before after : List DataFragment} {f : DataFragment} {p : Nat} {reason : AlphabetReason}
    (hbefore : ∀ g ∈ before, ∃ ss, decodeText cfg g.payload g.shift = .ok ss)
    (hf : decodeText cfg f.payload f.shift = .error (p, reason)) :
    joinPayloads cfg (before ++ f :: after) = .error (.alphabetError (some f.index) p reason) := by
  induction before with
  | nil => rw [List.nil_append, joinPayloads, payloadBits_of_error _ hf]
  | cons g before ih =>
    obtain ⟨⟨ss, hg⟩, hbefore⟩ := List.forall_mem_cons.mp hbefore
    rw [List.cons_append, joinPayloads, payloadBits_of_ok _ hg, ih hbefore]

end

/-! ## REASM -/

section
variable {cfg : Cfg} {hdr : Header} {frs : List DataFragment}

theorem reassemble_repeated {n : Nat} (h : 1 < (frs.map DataFragment.index).count n)
    (hleast : ∀ m < n, (frs.map DataFragment.index).count m ≤ 1) :
    reassemble cfg hdr frs = .error (.duplicateIndex n) := by
  rw [reassemble, smallestRepeated_eq_some h hleast]

theorem reassemble_of_nodup (h : (frs.map DataFragment.index).Nodup) :
    reassemble cfg hdr frs =
      (do
        let b ← payloadBits cfg 0 hdr.shift hdr.payload
        let bs ← joinPayloads cfg (sortByIndex frs)
        pure (b ++ bs)) := by
  rw [reassemble, smallestRepeated_of_nodup h]

/-- REASM of the fragments of a message in any order of arrival (45_reassembler.md R130). -/
theorem reassemble_message (hlegal : cfg.legal = true) (hshift : hdr.shift ≤ 9) {first : List Sym}
    (hpayload : hdr.payload = encodeText cfg first hdr.shift) {message : List (Nat × Nat × List Sym)}
    (hshifts : ∀ f ∈ message, f.2.1 ≤ 9) (hascending : message.Pairwise fun a b => a.1 < b.1)
    (hperm : frs.Perm (message.map fun f => ⟨f.1, f.2.1, encodeText cfg f.2.2 f.2.1⟩)) :
    reassemble cfg hdr frs = .ok (symbolBits (first ++ message.flatMap fun f => f.2.2)) := by
  have hnodup : (frs.map DataFragment.index).Nodup := by
    rw [(hperm.map DataFragment.index).nodup_iff, List.map_map]
    exact List.pairwise_map.mpr (hascending.imp Nat.ne_of_lt)
  rw [reassemble_of_nodup hnodup, hpayload, payloadBits_of_ok 0 (decodeText_encodeText_same hlegal first hshift),
    sortByIndex_eq_of_perm hperm (List.pairwise_map.mpr hascending), joinPayloads_of_message hlegal hshifts,
    symbolBits_append]
  rfl

theorem reassemble_bad_header (h : (frs.map DataFragment.index).Nodup) {p : Nat} {reason : AlphabetReason}
    (hbad : decodeText cfg hdr.payload hdr.shift = .error (p, reason)) :
    reassemble cfg hdr frs = .error (.alphabetError (some 0) p reason) := by
  rw [reassemble_of_nodup h, payloadBits_of_error 0 hbad]
  rfl

theorem reassemble_bad_fragment (h : (frs.map DataFragment.index).Nodup) {first : List Sym}
    (hfirst : decodeText cfg hdr.payload hdr.shift = .ok first) {f : DataFragment} (hf : f ∈ frs) {p : Nat}
    {reason : AlphabetReason} (hbad : decodeText cfg f.payload f.shift = .error (p, reason))
    (hbefore : ∀ g ∈ frs, g.index < f.index → ∃ ss, decodeText cfg g.payload g.shift = .ok ss) :
    reassemble cfg hdr frs = .error (.alphabetError (some f.index) p reason) := by
  obtain ⟨before, after, hsorted⟩ := List.append_of_mem ((sortByIndex_perm frs).mem_iff.mpr hf)
  have hgood : ∀ g ∈ before, ∃ ss, decodeText cfg g.payload g.shift = .ok ss := by
    intro g hg
    have hstrict := sortByIndex_strict h
    rw [hsorted] at hstrict
    have hmem : g ∈ sortByIndex frs := hsorted ▸ List.mem_append_left _ hg
    exact hbefore g ((sortByIndex_perm frs).mem_iff.mp hmem)
      ((List.pairwise_append.mp hstrict).2.2 g hg f List.mem_cons_self)
  rw [reassemble_of_nodup h, payloadBits_of_ok 0 hfirst, hsorted, joinPayloads_of_error hgood hbad]
  rfl

end

theorem headerOf_of {hdr : Header} (hshift : hdr.shift ≤ 9) : headerOf (HeaderOperand.of hdr) = .ok hdr :=
  congrArg (requireOperand .hdr) (Option.filter_some_pos (p := fun r : Header => decide (r.shift ≤ 9)) (decide_eq_true hshift))

theorem dataFragmentOf_of {f : DataFragment} (hindex : 1 ≤ f.index) (hshift : f.shift ≤ 9) :
    dataFragmentOf (FragmentOperand.of f) = .ok f := by
  have hdomain : (decide (1 ≤ f.index) && decide (f.shift ≤ 9)) = true := by simp [hindex, hshift]
  exact congrArg (requireOperand .frs)
    (Option.filter_some_pos (p := fun r : DataFragment => decide (1 ≤ r.index) && decide (r.shift ≤ 9)) hdomain)

theorem fragmentsOf_map_of {frs : List DataFragment} (h : ∀ f ∈ frs, 1 ≤ f.index ∧ f.shift ≤ 9) :
    fragmentsOf (frs.map FragmentOperand.of) = .ok frs := by
  induction frs with
  | nil => rfl
  | cons f frs ih =>
    obtain ⟨⟨hindex, hshift⟩, hfrs⟩ := List.forall_mem_cons.mp h
    have hrest : (frs.map FragmentOperand.of).mapM dataFragmentOf = .ok frs := ih hfrs
    rw [fragmentsOf, List.map_cons, List.mapM_cons, dataFragmentOf_of hindex hshift, hrest]
    rfl

theorem exec_reasm {s : State} {hdr : Header} {frs : List DataFragment} (hshift : hdr.shift ≤ 9)
    (hport : s.port.hdr = HeaderOperand.of hdr) (hfrs : s.port.frs = frs.map FragmentOperand.of)
    (h : ∀ f ∈ frs, 1 ≤ f.index ∧ f.shift ≤ 9) :
    exec .reasm s = datapath s (Value.bits <$> reassemble s.cfg hdr frs) := by
  change execReasm s = _
  rw [execReasm, hport, hfrs, headerOf_of hshift, fragmentsOf_map_of h, map_eq_pure_bind]
  rfl

/-- Settles O56: sorting finds the message's order (`sortByIndex_eq_of_perm`), and each payload is the text of its symbols. -/
theorem reasmResult : Obligations.ReasmResult := by
  intro s hdr frs hlegal hshift hport hfrs hdomain
  rw [exec_reasm hshift hport hfrs hdomain]
  refine ⟨fun first message hpayload hascending hperm => datapath_map_ok hlegal _ ?_,
    fun n hn hleast => datapath_map_error hlegal _ (reassemble_repeated hn hleast),
    fun hnodup => ⟨fun p reason hbad => datapath_map_error hlegal _ (reassemble_bad_header hnodup hbad),
      fun first f p reason hfirst hf hbad hbefore =>
        datapath_map_error hlegal _ (reassemble_bad_fragment hnodup hfirst hf hbad hbefore)⟩⟩
  have hshifts : ∀ f ∈ message, f.2.1 ≤ 9 := fun f hf =>
    (hdomain _ (hperm.mem_iff.mpr (List.mem_map_of_mem hf))).2
  exact reassemble_message hlegal hshift hpayload hshifts hascending hperm

end Sys2Proof.Machine
end

section
/-! PROOFS. BUILD and DECODE (spec/45_reassembler.md R128, R129, R133). -/

namespace Sys2Proof.Machine

/-! ## BUILD (45_reassembler.md R128) -/

/-- The field BUILD answers for the samples of all cells (45_reassembler.md R128). -/
def fieldOfSamples (cfg : Cfg) (hdr : Header) (S : List Sample) : RebuiltField where
  hours := hdr.hours
  base := hdr.base
  lat := hdr.lat
  lon := hdr.lon
  M := S.map Prod.fst
  D := S.map Prod.snd
  u := S.map fun q => (dequantize cfg q.1 q.2).1
  v := S.map fun q => (dequantize cfg q.1 q.2).2
  bbox := (hdr.latmin, hdr.latmax, hdr.lonmin, hdr.lonmax)
  spacing := (hdr.latstep, hdr.lonstep)

section
variable {cfg : Cfg} {hdr : Header} {b : Bits}

theorem rebuildField_of_samples {S : List Sample} (h : unpackNibbles (splitBits b) (headerCells hdr) = .ok S) :
    rebuildField cfg hdr b = .ok (fieldOfSamples cfg hdr S) := by
  simp only [rebuildField, h, bind, Except.bind, pure, Except.pure, fieldOfSamples, List.map_map, Function.comp_def]

theorem rebuildField_bad_count (heven : b.length / 4 ≠ 2 * headerCells hdr) (hodd : b.length / 4 ≠ 2 * headerCells hdr + 1) :
    rebuildField cfg hdr b = .error (.gridSizeMismatch (b.length / 4) (headerCells hdr)) := by
  rw [← splitBits_length] at heven hodd ⊢
  rw [rebuildField, unpackNibbles_error heven hodd]
  rfl

end

/-- Packed samples survive SPLIT and UNPACK with up to 7 spare bits after them. -/
theorem unpackNibbles_packSamples_append (S : List Sample) {spare : Bits} (hspare : spare.length ≤ 7) :
    unpackNibbles (splitBits (packSamples S ++ spare)) S.length = .ok S := by
  rw [packSamples_eq_flatMap, splitBits_flatMap_append]
  refine unpackNibbles_samples S ?_
  rw [splitBits_length]
  omega

theorem exec_build {s : State} {hdr : Header} {b : Bits} (hshift : hdr.shift ≤ 9) (hport : s.port.hdr = HeaderOperand.of hdr)
    (hbits : s.port.bits = b.map Bool.toNat) : exec .build s = datapath s (Value.field <$> rebuildField s.cfg hdr b) := by
  change execBuild s = _
  rw [execBuild, hport, hbits, headerOf_of hshift, bitsOf_map_toNat, map_eq_pure_bind]
  rfl

/-- Settles O58: the nibbles of the packed samples are theirs and at most one spare, and too few symbols hold too few nibbles. -/
theorem buildResult : Obligations.BuildResult := by
  intro s hdr b hlegal hshift hport hbits
  rw [exec_build hshift hport hbits]
  refine ⟨fun S spare hS hb hspare => datapath_map_ok hlegal _ (rebuildField_of_samples ?_),
    fun heven hodd => datapath_map_error hlegal _ (rebuildField_bad_count heven hodd),
    fun ss hss hb => ⟨b.length / 4, datapath_map_error hlegal _ (rebuildField_bad_count ?_ ?_)⟩⟩
  · rw [hb, ← hS]
    exact unpackNibbles_packSamples_append S hspare
  all_goals
    rw [hb, symbolBits_length]
    omega

/-! ## DECODE (45_reassembler.md R129) -/

/-- The lines of a sequence of pairs, in text order. -/
def pairLines (pairs : List (Text × Text)) : List Text := pairs.flatMap fun p => [p.1, p.2]

theorem pairLines_length (pairs : List (Text × Text)) : (pairLines pairs).length = 2 * pairs.length := by
  simp [pairLines, Nat.mul_comm]

theorem pairLines_cons (p : Text × Text) (pairs : List (Text × Text)) :
    pairLines (p :: pairs) = p.1 :: p.2 :: pairLines pairs := rfl

/-- The first bad pair in text order is the error. -/
theorem parsePairs_of_error {good later : List (Text × Text)} {bad : Text × Text} {e : Err}
    (hgood : ∀ p ∈ good, ∃ f, parseFragment [p.1, p.2] = .ok f) (hbad : parseFragment [bad.1, bad.2] = .error e) :
    parsePairs (pairLines (good ++ bad :: later)) = .error e := by
  induction good with
  | nil => rw [List.nil_append, pairLines_cons, parsePairs, hbad]
  | cons p good ih =>
    obtain ⟨⟨f, hf⟩, hgood⟩ := List.forall_mem_cons.mp hgood
    rw [List.cons_append, pairLines_cons, parsePairs, hf, ih hgood]

/-- Pairs that all parse give their fragments in text order. -/
theorem parsePairs_of_ok {pairs : List (Text × Text)} {frs : List DataFragment} (hlength : frs.length = pairs.length)
    (h : ∀ p ∈ pairs.zip frs, parseFragment [p.1.1, p.1.2] = .ok p.2) : parsePairs (pairLines pairs) = .ok frs := by
  induction pairs generalizing frs with
  | nil =>
    rw [List.length_eq_zero_iff.mp hlength]
    rfl
  | cons p pairs ih =>
    obtain ⟨f, frs, rfl⟩ := List.exists_cons_of_length_eq_add_one hlength
    rw [List.zip_cons_cons] at h
    obtain ⟨hf, hrest⟩ := List.forall_mem_cons.mp h
    rw [pairLines_cons, parsePairs, hf, ih (Nat.succ.inj hlength) hrest]

section
variable {cfg : Cfg} {ts : List Text}

theorem decodeCorpus_bad_header {e : Err} (h : parseHeader cfg (survivingLines ts) = .error e) :
    decodeCorpus cfg ts = .error e := by
  rw [decodeCorpus, h]
  rfl

theorem six_le_length_of_parseHeader {ls : List Text} {hdr : Header} (h : parseHeader cfg ls = .ok hdr) : 6 ≤ ls.length := by
  by_contra hshort
  rw [parseHeader_short cfg (by omega)] at h
  cases h

variable {hdr : Header} (h : parseHeader cfg (survivingLines ts) = .ok hdr)
include h

theorem decodeCorpus_unpaired (hodd : (survivingLines ts).length % 2 = 1) :
    decodeCorpus cfg ts = .error (.malformedFragment .unpaired) := by
  have hsix := six_le_length_of_parseHeader h
  have hrest : ((survivingLines ts).drop 6).length % 2 = 1 := by
    rw [List.length_drop]
    omega
  rw [decodeCorpus, h]
  exact if_pos hrest

theorem decodeCorpus_of_pairs {pairs : List (Text × Text)} (hpairs : (survivingLines ts).drop 6 = pairLines pairs) :
    decodeCorpus cfg ts =
      (do
        let frs ← parsePairs (pairLines pairs)
        let bits ← reassemble cfg hdr frs
        rebuildField cfg hdr bits) := by
  have heven : ¬(pairLines pairs).length % 2 = 1 := by
    rw [pairLines_length]
    omega
  rw [decodeCorpus, h, hpairs]
  exact if_neg heven

theorem decodeCorpus_of_fragments {pairs : List (Text × Text)} {frs : List DataFragment}
    (hpairs : (survivingLines ts).drop 6 = pairLines pairs) (hlength : frs.length = pairs.length)
    (hfrs : ∀ p ∈ pairs.zip frs, parseFragment [p.1.1, p.1.2] = .ok p.2) :
    decodeCorpus cfg ts = reassemble cfg hdr frs >>= rebuildField cfg hdr := by
  rw [decodeCorpus_of_pairs h hpairs, parsePairs_of_ok hlength hfrs]
  rfl

end

/-- Settles O59: DECODE reads the header and then the pairs, and each part that fails is its error. -/
theorem decodeResult : Obligations.DecodeResult := by
  intro s hlegal
  rw [exec_decode]
  refine ⟨fun e he => datapath_map_error hlegal _ (decodeCorpus_bad_header he), fun hdr hhdr =>
    ⟨fun hodd => datapath_map_error hlegal _ (decodeCorpus_unpaired hhdr hodd),
      fun good later bad e hpairs hgood hbad => datapath_map_error hlegal _ ?_, fun pairs frs hpairs hlength hfrs => ?_⟩⟩
  · rw [decodeCorpus_of_pairs hhdr hpairs, parsePairs_of_error hgood hbad]
    rfl
  rw [decodeCorpus_of_fragments hhdr hpairs hlength hfrs]
  refine ⟨fun e he => datapath_map_error hlegal _ ?_, fun b hb => ?_⟩
  · rw [he]
    rfl
  rw [hb]
  exact ⟨fun e => datapath_map_error hlegal Value.field, fun G => datapath_map_ok hlegal Value.field⟩

end Sys2Proof.Machine
end

section
/-! PROOFS. The lines of the framer's fragments (spec/30_encoding.md R68 to R71; 44_framer.md R99 to R102; 45_reassembler.md R122). -/

namespace Sys2Proof

/-! ## Texts of one line -/

/-- A text with no line end in it. -/
def Unbroken (t : Text) : Prop := nl ∉ t ∧ cr ∉ t

theorem unbroken_nil : Unbroken [] := ⟨List.not_mem_nil, List.not_mem_nil⟩

theorem unbroken_append {a b : Text} : Unbroken (a ++ b) ↔ Unbroken a ∧ Unbroken b := by
  simp only [Unbroken, List.mem_append, not_or]
  exact and_and_and_comm

theorem unbroken_of_all {allowed : Char → Bool} (hnl : allowed nl = false) (hcr : allowed cr = false) {t : Text}
    (h : t.all allowed = true) : Unbroken t := ⟨notMem_of_all hnl h, notMem_of_all hcr h⟩

theorem unbroken_singleton {c : Char} (hnl : c ≠ nl) (hcr : c ≠ cr) : Unbroken [c] :=
  ⟨fun h => hnl (List.mem_singleton.mp h).symm, fun h => hcr (List.mem_singleton.mp h).symm⟩

theorem unbroken_joinTexts {sep : Text} (hsep : Unbroken sep) {ts : List Text} (h : ∀ t ∈ ts, Unbroken t) :
    Unbroken (joinTexts sep ts) := by
  induction ts with
  | nil => exact unbroken_nil
  | cons t ts ih =>
    obtain ⟨ht, hts⟩ := List.forall_mem_cons.mp h
    by_cases hne : ts = []
    · rw [hne]
      exact ht
    · rw [joinTexts_cons _ _ hne]
      exact unbroken_append.mpr ⟨unbroken_append.mpr ⟨ht, hsep⟩, ih hts⟩

theorem linesOf_joinTexts {ls : List Text} (hne : ls ≠ []) (h : ∀ l ∈ ls, Unbroken l) : linesOf (joinTexts [nl] ls) = ls := by
  rw [linesOf, splitText_joinTexts hne fun l hl => (h l hl).1]
  refine (List.map_congr_left fun l hl => stripCr_of_ne fun hlast => ?_).trans (List.map_id' ls)
  exact (h l hl).2 (List.mem_of_getLast? hlast)

/-- Lines of a text that ends each of `ls` with an `NL` and may end in END (44_framer.md R102). -/
theorem linesOf_ended {ls : List Text} (hne : ls ≠ []) (h : ∀ l ∈ ls, Unbroken l) {tail : Text}
    (htail : tail = [] ∨ tail = endToken) : linesOf (joinTexts [nl] ls ++ [nl] ++ tail) = ls ++ [tail] := by
  rw [List.append_assoc, List.singleton_append, linesOf_append_nl, linesOf_joinTexts hne h]
  obtain rfl | rfl := htail <;> rfl

/-! ## Numerals (00_scope.md R19; 44_framer.md R99) -/

theorem unbroken_dec (n : Nat) : Unbroken (dec n) := unbroken_of_all rfl rfl (dec_all_isDigit n)

theorem comma_notMem_dec (n : Nat) : ',' ∉ dec n := notMem_of_all rfl (dec_all_isDigit n)

/-- A character that F may write. -/
def isRealChar (c : Char) : Bool := isDigit c || decide (c ∈ ['-', '+', '.', 'e'])

theorem all_isRealChar_of_digits {t : Text} (h : t.all isDigit = true) : t.all isRealChar = true :=
  List.all_eq_true.mpr fun c hc => by rw [isRealChar, List.all_eq_true.mp h c hc, Bool.true_or]

theorem all_isRealChar_replicate (n : Nat) : (List.replicate n '0').all isRealChar = true :=
  List.all_eq_true.mpr fun _ hc => (List.eq_of_mem_replicate hc).symm ▸ rfl

theorem all_of_subset {allowed : Char → Bool} {t u : Text} (hsub : u ⊆ t) (h : t.all allowed = true) :
    u.all allowed = true := List.all_eq_true.mpr fun c hc => List.all_eq_true.mp h c (hsub hc)

/-- Every layout of digits writes digits, a point, signs and the letter of an exponent. -/
theorem floatLayout_all_isRealChar {ds : Text} (h : ds.all isRealChar = true) (E : Int) :
    (floatLayout ds E).all isRealChar = true := by
  have htake (n : Nat) : (ds.take n).all isRealChar = true := all_of_subset (List.take_subset n ds) h
  have hdrop (n : Nat) : (ds.drop n).all isRealChar = true := all_of_subset (List.drop_subset n ds) h
  have hexpo : (dec2 E.natAbs).all isRealChar = true := all_isRealChar_of_digits (padZeros_dec_all_isDigit 2 _)
  have hzeros := all_isRealChar_replicate
  have hsigns : isRealChar '.' = true ∧ isRealChar '0' = true ∧ isRealChar 'e' = true ∧ isRealChar '-' = true ∧
      isRealChar '+' = true := ⟨rfl, rfl, rfl, rfl, rfl⟩
  obtain ⟨hpoint, hzero, he, hminus, hplus⟩ := hsigns
  unfold floatLayout
  simp only
  split
  · split
    · simp only [List.all_append, List.all_cons, List.all_nil, h, hzeros, hpoint, hzero, Bool.and_self]
    · split
      · simp only [List.all_append, List.all_cons, List.all_nil, htake, hdrop, hpoint, Bool.and_self]
      · simp only [List.all_append, List.all_cons, List.all_nil, h, hzeros, hpoint, hzero, Bool.and_self]
  · have hfraction : (if (1 : Int) < ds.length then '.' :: ds.drop 1 else []).all isRealChar = true := by
      split
      · rw [List.all_cons, hpoint, hdrop, Bool.and_self]
      · rfl
    have hsign : (if E < 0 then ['-'] else ['+']).all isRealChar = true := by
      split <;> rfl
    simp only [List.all_append, List.all_cons, List.all_nil, htake, hfraction, he, hsign, hexpo, Bool.and_self]

theorem dropTrailingZeros_subset (ds : Text) : dropTrailingZeros ds ⊆ ds := by
  obtain ⟨z, hz⟩ := exists_zeros_dropTrailingZeros ds
  intro c hc
  rw [hz]
  exact List.mem_append_left _ hc

theorem floatText_all_isRealChar (x : F64) : (floatText x).all isRealChar = true := by
  cases x with
  | nan => rfl
  | inf _ => rfl
  | fin s m =>
    have hsign : (if s then ['-'] else []).all isRealChar = true := by cases s <;> rfl
    have hdigits : (floatDigits m.val).all isRealChar = true := by
      refine floatLayout_all_isRealChar (all_isRealChar_of_digits ?_) _
      exact all_of_subset (dropTrailingZeros_subset _) (dec_all_isDigit _)
    rw [floatText, List.all_append, hsign, Bool.true_and]
    split
    · rfl
    · exact hdigits

theorem unbroken_floatText (x : F64) : Unbroken (floatText x) := unbroken_of_all rfl rfl (floatText_all_isRealChar x)

theorem comma_notMem_floatText (x : F64) : ',' ∉ floatText x := notMem_of_all rfl (floatText_all_isRealChar x)

/-! ## The date-time line (30_encoding.md R71) -/

theorem unbroken_dateTimeLine (d : DateTime) : Unbroken (dateTimeLine d) := by
  have hfield (w n : Nat) : Unbroken (padZeros w (dec n)) := unbroken_of_all rfl rfl (padZeros_dec_all_isDigit w n)
  have hsep : ∀ c ∈ ['-', ' ', ':'], Unbroken [c] := by
    intro c hc
    exact unbroken_singleton (by rintro rfl; exact absurd hc (by decide)) (by rintro rfl; exact absurd hc (by decide))
  simp only [dateTimeLine, dec2, dec4, unbroken_append, hfield, hsep '-' (by decide), hsep ' ' (by decide),
    hsep ':' (by decide), and_self]

theorem dateTimeLine_ne_nil (d : DateTime) : dateTimeLine d ≠ [] := by simp [dateTimeLine]

/-! ## List lines (30_encoding.md R68, R72) -/

theorem mapM_map_written {α : Type} {read : Text → Option α} {write : α → Text} {xs : List α}
    (h : ∀ x ∈ xs, read (write x) = some x) : (xs.map write).mapM read = some xs := by
  induction xs with
  | nil => rfl
  | cons x xs ih =>
    obtain ⟨hx, hxs⟩ := List.forall_mem_cons.mp h
    rw [List.map_cons, List.mapM_cons, hx, ih hxs]
    rfl

/-- A list line of texts that read back, none with a comma, reads back. -/
theorem parseList_written {α : Type} {read : Text → Option α} {write : α → Text} {xs : List α} (hne : xs ≠ [])
    (hcomma : ∀ x, ',' ∉ write x) (h : ∀ x ∈ xs, read (write x) = some x) :
    parseList read (joinTexts [','] (xs.map write)) = some xs := by
  have htokens : ∀ t ∈ xs.map write, ',' ∉ t := by
    intro t ht
    obtain ⟨x, -, rfl⟩ := List.mem_map.mp ht
    exact hcomma x
  rw [parseList_joinTexts read (List.map_eq_nil_iff.not.mpr hne) htokens, mapM_map_written h]

theorem unbroken_listLine {α : Type} {write : α → Text} (h : ∀ x, Unbroken (write x)) (xs : List α) :
    Unbroken (joinTexts [','] (xs.map write)) := by
  refine unbroken_joinTexts (unbroken_singleton (by decide) (by decide)) fun t ht => ?_
  obtain ⟨x, -, rfl⟩ := List.mem_map.mp ht
  exact h x

end Sys2Proof

namespace Sys2Proof.Machine

/-! ## The payload line (30_encoding.md R65) -/

theorem unbroken_encodeSymbol {cfg : Cfg} (h : cfg.legal = true) (x : Sym) (k : Nat) : Unbroken (encodeSymbol cfg x k) := by
  by_cases hx : x.toNat ≤ 121
  · obtain ⟨-, -, hsafe⟩ := Cfg.legal_safeSet h
    have hmem := List.mem_of_getElem? (safeSet_getElem? h (i := (x.toNat + k) % 122) (Nat.mod_lt _ (by decide)))
    obtain ⟨-, hnl, hcr, -⟩ := (safeChar_iff _).mp (hsafe _ hmem)
    rw [encodeSymbol_safe cfg k hx]
    exact unbroken_singleton hnl hcr
  · obtain ⟨d, hd, hnl, hcr⟩ := escTable_entry h (i := x.toNat - 122) (by have := x.isLt; omega)
    rw [encodeSymbol_escape cfg k (by omega), List.getD_eq_getElem?_getD, hd]
    exact unbroken_append (a := [escMark]) (b := [d]).mpr
      ⟨unbroken_singleton (by decide) (by decide), unbroken_singleton hnl hcr⟩

theorem unbroken_encodeText {cfg : Cfg} (h : cfg.legal = true) (ss : List Sym) (k : Nat) : Unbroken (encodeText cfg ss k) := by
  induction ss with
  | nil => exact unbroken_nil
  | cons x xs ih => exact unbroken_append.mpr ⟨unbroken_encodeSymbol h x k, ih⟩

theorem encodeText_eq_nil_iff {cfg : Cfg} (h : cfg.legal = true) {ss : List Sym} {k : Nat} :
    encodeText cfg ss k = [] ↔ ss = [] := by
  cases ss with
  | nil => simp
  | cons x xs => simp [encodeSymbol_ne_nil h]

/-! ## The lines of a fragment (30_encoding.md R68, R69) -/

/-- The metadata lines of a fragment without their line ends. -/
def metadataRows (index k : Nat) (m : HeaderMeta) : List Text :=
  if index = 0 then
    [joinTexts [','] (m.hours.map dec), dateTimeLine m.base,
      joinTexts [','] ([m.latmin, m.latmax, m.lonmin, m.lonmax].map floatText),
      joinTexts [','] ([m.latstep, m.lonstep].map floatText), dec k]
  else [joinTexts [','] ([index, k].map dec)]

theorem metadataLines_append (index k : Nat) (m : HeaderMeta) (payload : Text) :
    metadataLines index k m ++ payload = joinTexts [nl] (metadataRows index k m ++ [payload]) := by
  rw [metadataLines, metadataRows]
  split
  · simp [headerLines, joinTexts]
  · simp [dataLine, joinTexts]

theorem unbroken_metadataRows (index k : Nat) (m : HeaderMeta) : ∀ l ∈ metadataRows index k m, Unbroken l := by
  have hnats := unbroken_listLine unbroken_dec
  have hreals := unbroken_listLine unbroken_floatText
  rw [metadataRows]
  split
  · simp only [List.forall_mem_cons, hnats, hreals, unbroken_dateTimeLine, unbroken_dec, true_and]
    exact nofun
  · exact List.forall_mem_singleton.mpr (hnats _)

/-- The text `text` is the fragment of index f.1 at shift f.2.1 with the symbols f.2.2. -/
def IsFragmentText (cfg : Cfg) (m : HeaderMeta) (text : Text) (f : Nat × Nat × List Sym) : Prop :=
  ∃ tail, (tail = [] ∨ tail = endToken) ∧
    text = metadataLines f.1 f.2.1 m ++ encodeText cfg f.2.2 f.2.1 ++ [nl] ++ tail

/-- The metadata lines of a fragment and its payload line. -/
def fragmentRows (cfg : Cfg) (m : HeaderMeta) (f : Nat × Nat × List Sym) : List Text :=
  metadataRows f.1 f.2.1 m ++ [encodeText cfg f.2.2 f.2.1]

theorem fragmentRows_ne_nil (cfg : Cfg) (m : HeaderMeta) (f : Nat × Nat × List Sym) : fragmentRows cfg m f ≠ [] :=
  List.append_ne_nil_of_right_ne_nil _ (List.cons_ne_nil _ _)

section
variable {cfg : Cfg} (h : cfg.legal = true) {m : HeaderMeta} {text : Text} {f : Nat × Nat × List Sym}
include h

theorem unbroken_fragmentRows : ∀ l ∈ fragmentRows cfg m f, Unbroken l :=
  List.forall_mem_append.mpr ⟨unbroken_metadataRows _ _ m, List.forall_mem_singleton.mpr (unbroken_encodeText h _ _)⟩

variable (hf : IsFragmentText cfg m text f)
include hf

/-- A fragment has one more line than these, which is empty or reads END. -/
theorem IsFragmentText.linesOf_dropLast : (linesOf text).dropLast = fragmentRows cfg m f := by
  obtain ⟨tail, htail, rfl⟩ := hf
  rw [metadataLines_append, ← fragmentRows, linesOf_ended (fragmentRows_ne_nil cfg m f) (unbroken_fragmentRows h) htail,
    List.dropLast_concat]

/-- Where none of these is blank or reads END, they are the surviving lines. -/
theorem IsFragmentText.survivingLines (hkept : ∀ line ∈ (linesOf text).dropLast, line ≠ [] ∧ line ≠ endToken) :
    survivingLines [text] = fragmentRows cfg m f := by
  rw [hf.linesOf_dropLast h] at hkept
  obtain ⟨tail, htail, rfl⟩ := hf
  rw [survivingLines_append_tail _ htail, metadataLines_append, ← fragmentRows, Machine.survivingLines, joinTexts_one,
    linesOf_joinTexts (fragmentRows_ne_nil cfg m f) (unbroken_fragmentRows h)]
  exact List.filter_eq_self.mpr fun line hline => by simpa using hkept line hline

end

theorem isFragmentText_fragmentText (cfg : Cfg) (m : HeaderMeta) (index k : Nat) (ss : List Sym) (cur : Nat) :
    IsFragmentText cfg m (fragmentText cfg k (metadataLines index k m) ss cur).1
      (index, k, (ss.drop cur).take (fragmentText cfg k (metadataLines index k m) ss cur).2) := by
  refine ⟨_, ?_, fragmentText_text cfg k (metadataLines index k m) ss cur⟩
  split
  · exact .inr rfl
  · exact .inl rfl

end Sys2Proof.Machine
end

section
/-! PROOFS. The round trip of the codec (spec/45_reassembler.md R132). -/

namespace Sys2Proof.Machine

/-! ## The fragments of a message (44_framer.md R113, R121) -/

/-- The fragments of `messageTexts`: the index, the shift and the symbols of each. -/
def messageFragments (cfg : Cfg) (m : HeaderMeta) (ss : List Sym) : Nat → Nat → List Nat → List (Nat × Nat × List Sym)
  | _, _, [] => []
  | index, cur, k :: ks =>
    (index, k, (ss.drop cur).take (fragmentText cfg k (metadataLines index k m) ss cur).2) ::
      messageFragments cfg m ss (index + 1) (cur + (fragmentText cfg k (metadataLines index k m) ss cur).2) ks

section
variable (cfg : Cfg) (m : HeaderMeta) (ss : List Sym) (index cur : Nat) (ks : List Nat)

theorem messageTexts_areFragmentTexts :
    List.Forall₂ (IsFragmentText cfg m) (messageTexts cfg m ss index cur ks) (messageFragments cfg m ss index cur ks) := by
  induction ks generalizing index cur with
  | nil => exact .nil
  | cons k ks ih => exact .cons (isFragmentText_fragmentText cfg m index k ss cur) (ih _ _)

/-- The fragments hold the symbols from the first cursor to the last. -/
theorem messageFragments_symbols :
    ((messageFragments cfg m ss index cur ks).flatMap fun f => f.2.2) ++ ss.drop (messageCursor cfg m ss index cur ks) =
      ss.drop cur := by
  induction ks generalizing index cur with
  | nil => rfl
  | cons k ks ih =>
    rw [messageFragments, List.flatMap_cons, messageCursor, List.append_assoc, ih, ← List.drop_drop,
      List.take_append_drop]

theorem messageFragments_shift : ∀ f ∈ messageFragments cfg m ss index cur ks, f.2.1 ∈ ks := by
  induction ks generalizing index cur with
  | nil => exact nofun
  | cons k ks ih => exact List.forall_mem_cons.mpr ⟨List.mem_cons_self, fun f hf => List.mem_cons_of_mem _ (ih _ _ f hf)⟩

theorem le_index_of_mem_messageFragments : ∀ f ∈ messageFragments cfg m ss index cur ks, index ≤ f.1 := by
  induction ks generalizing index cur with
  | nil => exact nofun
  | cons k ks ih =>
    exact List.forall_mem_cons.mpr ⟨Nat.le_refl _, fun f hf => Nat.le_of_succ_le (ih _ _ f hf)⟩

theorem messageFragments_ascending : (messageFragments cfg m ss index cur ks).Pairwise fun f g => f.1 < g.1 := by
  induction ks generalizing index cur with
  | nil => exact .nil
  | cons k ks ih => exact .cons (le_index_of_mem_messageFragments cfg m ss _ _ ks) (ih _ _)

end

/-! ## No sent line is blank -/

/-- No line of a text but the one after its last `NL` is blank. -/
def NoBlankLine (text : Text) : Prop := ∀ line ∈ (linesOf text).dropLast, line ≠ []

theorem joinTexts_comma_ne_nil {α : Type} {write : α → Text} (hwrite : ∀ x, write x ≠ []) {xs : List α} (hne : xs ≠ []) :
    joinTexts [','] (xs.map write) ≠ [] := by
  obtain ⟨x, xs, rfl⟩ := List.exists_cons_of_ne_nil hne
  cases xs with
  | nil => exact hwrite x
  | cons y ys => simp [joinTexts]

theorem metadataRows_ne_nil (index k : Nat) {m : HeaderMeta} (hhours : index = 0 → m.hours ≠ []) :
    ∀ l ∈ metadataRows index k m, l ≠ [] := by
  rw [metadataRows]
  split
  · next hindex =>
    have hreals : ∀ x y : F64, ∀ xs : List F64, joinTexts [','] ((x :: y :: xs).map floatText) ≠ [] := by simp [joinTexts]
    simp only [List.forall_mem_cons]
    exact ⟨joinTexts_comma_ne_nil dec_ne_nil (hhours hindex), dateTimeLine_ne_nil _, hreals _ _ _, hreals _ _ _,
      dec_ne_nil _, nofun⟩
  · exact List.forall_mem_singleton.mpr (joinTexts_comma_ne_nil dec_ne_nil (List.cons_ne_nil _ _))

/-- A fragment that waits for its answer carries a symbol, so its payload line is not blank. -/
theorem State.Inv.noBlankLine {s : State} (h : s.Inv) (hs : s.state = .sending) : NoBlankLine s.txbuf := by
  obtain ⟨⟨hcount, hrange, -⟩, -, -⟩ := h.of_sending hs
  obtain ⟨hfragment, hheader⟩ := h.fragment hs
  have htext := isFragmentText_fragmentText s.cfg s.header s.index s.shift.toNat s.syms s.cursor
  rw [hfragment] at htext
  have hsymbols : (s.syms.drop s.cursor).take s.count ≠ [] := by
    rw [h.nsymIsLength] at hrange
    refine List.length_pos_iff.mp ?_
    rw [List.length_take, List.length_drop]
    omega
  rw [NoBlankLine, htext.linesOf_dropLast h.legal]
  exact List.forall_mem_append.mpr ⟨metadataRows_ne_nil _ _ fun hindex => (hheader hindex).1,
    List.forall_mem_singleton.mpr ((encodeText_eq_nil_iff h.legal).not.mpr hsymbols)⟩

/-- Every Send after the events `earlier` is of a text with no blank line. -/
def SendsNoBlankLine (earlier : List Event) (t : State) : Prop :=
  ∃ log, t.txlog = earlier ++ log ∧ ∀ text, Event.send text ∈ log → NoBlankLine text

theorem SendsNoBlankLine.append {earlier acks : List Event} {r t : State} (h : SendsNoBlankLine earlier r)
    (hacks : ∀ text, Event.send text ∉ acks) (hsends : t.SendsAtMostOnce (r.txlog ++ acks)) (ht : t.Inv) :
    SendsNoBlankLine earlier t := by
  obtain ⟨log, hlog, hall⟩ := h
  rw [State.SendsAtMostOnce, hlog, List.append_assoc] at hsends
  obtain hsame | ⟨hsent, hs⟩ := hsends
  · refine ⟨log ++ acks, hsame, fun text htext => ?_⟩
    exact (List.mem_append.mp htext).elim (hall text) fun hbad => absurd hbad (hacks text)
  · rw [List.append_assoc, List.append_assoc] at hsent
    refine ⟨log ++ (acks ++ [.send t.txbuf]), hsent, fun text htext => ?_⟩
    obtain hold | hack | hnew := by simpa using htext
    · exact hall text hold
    · exact absurd hack (hacks text)
    · exact hnew ▸ ht.noBlankLine hs

theorem SendsNoBlankLine.answered {earlier : List Event} {answers : List Bool} {r : State} (h : SendsNoBlankLine earlier r)
    (hr : r.Inv) : SendsNoBlankLine earlier (r.answered answers) := by
  induction answers generalizing r with
  | nil => exact h
  | cons ok answers ih =>
    have hnext := sendackNext_inv hr ok
    refine ih ?_ hnext
    obtain hsame | ⟨-, hsends⟩ := sendackNext_log r ok
    · exact h.append (acks := []) nofun (.inl (hsame.trans (List.append_nil _).symm)) hnext
    · exact h.append (by simp) hsends hnext

theorem EncodeBegun.sendsNoBlankLine {earlier : List Event} {t : State} (h : EncodeBegun earlier t) :
    SendsNoBlankLine earlier t := by
  refine ⟨_, h.log, fun text htext => ?_⟩
  obtain rfl : text = t.txbuf := by simpa using htext
  exact h.inv.noBlankLine h.sending

theorem send_mem_of_mem_acceptedTexts {text : Text} {log : List Event} (h : text ∈ acceptedTexts log) :
    Event.send text ∈ log := by
  induction log using acceptedTexts.induct with
  | case1 t es ih =>
    rw [acceptedTexts] at h
    obtain rfl | h := List.mem_cons.mp h
    · exact List.mem_cons_self
    · exact List.mem_cons_of_mem _ (List.mem_cons_of_mem _ (ih h))
  | case2 e es hnot ih =>
    rw [acceptedTexts] at h
    · exact List.mem_cons_of_mem _ (ih h)
    · exact hnot
  | case3 => exact absurd h List.not_mem_nil

/-! ## The message START prepares (44_framer.md R112) -/

theorem render_message {s before : State} (hstate : before.state ≠ .sending) (ht : (s.render before).state = .sending) :
    (s.render before).header = s.header ∧ (s.render before).syms = s.syms := by
  obtain ⟨e, -, heq⟩ | ⟨text, -, heq⟩ | ⟨text, n, -, heq⟩ := render_cases s before
  · rw [heq] at ht
    exact absurd ht hstate
  · rw [heq] at ht
    cases ht
  · rw [heq]
    exact ⟨rfl, rfl⟩

/-- START that goes to SENDING holds the record and the symbols of a legal field. -/
theorem startNext_message {s : State} {F : WindField} (hs : s.state ≠ .sending) (hport : s.port.F = FieldOperand.of F)
    (ht : s.startNext.state = .sending) :
    ∃ S, fieldDefect F = none ∧ quantizeField s.cfg F = .ok S ∧ s.startNext.header = fieldMeta F ∧
      s.startNext.syms = groupBits (packSamples S) := by
  have hfield : fieldOf s.port.F = .ok F := hport ▸ rfl
  have hbegin : s.startNext = s.begin F := by rw [State.startNext, if_neg hs, hfield]
  rw [hbegin] at ht ⊢
  obtain ⟨reason, -, heq⟩ | ⟨e, -, -, heq⟩ | ⟨S, hdefect, hsamples, heq⟩ := begin_cases s F
  · rw [heq] at ht
    cases ht
  · rw [heq] at ht
    cases ht
  · rw [heq] at ht ⊢
    exact ⟨S, hdefect, hsamples, render_message hs ht⟩

theorem quantizeField_length {cfg : Cfg} {F : WindField} {S : List Sample} (h : quantizeField cfg F = .ok S) :
    S.length = fieldCells F := by
  by_cases hlength : F.u.length = fieldCells F ∧ F.v.length = fieldCells F
  · obtain ⟨hu, hv⟩ := hlength
    rw [quantizeField_of_length cfg hu hv, quantizeCells_eq_ok_iff] at h
    simpa [hu, hv] using (congrArg List.length h).symm
  · rw [quantizeField_of_length_ne cfg (not_and_or.mp hlength)] at h
    cases h

/-! ## A header and a data fragment read back (45_reassembler.md R124, R125) -/

/-- A header record whose lines read back, its axes with the given point counts. -/
structure HeaderReads (cfg : Cfg) (m : HeaderMeta) (nlat nlon : Nat) : Prop where
  hours : m.hours ≠ []
  base : m.base.valid = true
  reals : ∀ x ∈ [m.latmin, m.latmax, m.lonmin, m.lonmax, m.latstep, m.lonstep], parseReal (floatText x) = some x
  lat : axisCount cfg m.latmin m.latmax m.latstep = some nlat
  lon : axisCount cfg m.lonmin m.lonmax m.lonstep = some nlon

/-- What PARSEHDR answers for a written header. -/
def headerOfMeta (m : HeaderMeta) (nlat nlon k : Nat) (payload : Text) : Header where
  hours := m.hours
  base := m.base
  latmin := m.latmin
  latmax := m.latmax
  lonmin := m.lonmin
  lonmax := m.lonmax
  latstep := m.latstep
  lonstep := m.lonstep
  lat := axisPoints m.latmin m.latmax nlat
  lon := axisPoints m.lonmin m.lonmax nlon
  shift := k
  payload := payload

theorem headerCells_headerOfMeta (m : HeaderMeta) (nlat nlon k : Nat) (payload : Text) :
    headerCells (headerOfMeta m nlat nlon k payload) = m.hours.length * nlat * nlon := by
  simp only [headerCells, headerOfMeta, axisPoints_length]

theorem parseHeader_metadataRows {cfg : Cfg} {m : HeaderMeta} {nlat nlon k : Nat} (h : HeaderReads cfg m nlat nlon)
    (hk : k ≤ 9) (payload : Text) (more : List Text) :
    parseHeader cfg (metadataRows 0 k m ++ payload :: more) = .ok (headerOfMeta m nlat nlon k payload) := by
  have hhours := parseList_written h.hours comma_notMem_dec fun n _ => parseNat_dec n
  have hbox : parseList parseReal (joinTexts [','] ([m.latmin, m.latmax, m.lonmin, m.lonmax].map floatText)) = _ :=
    parseList_written (List.cons_ne_nil _ _) comma_notMem_floatText fun x hx =>
      h.reals x (List.mem_append_left [m.latstep, m.lonstep] hx)
  have hspacing : parseList parseReal (joinTexts [','] ([m.latstep, m.lonstep].map floatText)) = _ :=
    parseList_written (List.cons_ne_nil _ _) comma_notMem_floatText fun x hx =>
      h.reals x (List.mem_append_right [m.latmin, m.latmax, m.lonmin, m.lonmax] hx)
  rw [metadataRows, if_pos rfl]
  simp only [List.cons_append, List.nil_append, parseHeader, hhours, parseDateTime_dateTimeLine h.base,
    parseFour_eq_some hbox, parseTwo_eq_some hspacing, parseShift_eq_some (parseNat_dec k) hk,
    regenerateAxis_of_count h.lat, regenerateAxis_of_count h.lon, orHeader_some, bind, Except.bind, pure, Except.pure,
    headerOfMeta]

/-- The record of a data fragment. -/
def recordOf (cfg : Cfg) (f : Nat × Nat × List Sym) : DataFragment := ⟨f.1, f.2.1, encodeText cfg f.2.2 f.2.1⟩

/-- The pair of lines of a data fragment. -/
def dataPair (cfg : Cfg) (f : Nat × Nat × List Sym) : Text × Text :=
  (joinTexts [','] ([f.1, f.2.1].map dec), encodeText cfg f.2.2 f.2.1)

theorem fragmentRows_data (cfg : Cfg) (m : HeaderMeta) {f : Nat × Nat × List Sym} (hindex : 1 ≤ f.1) :
    fragmentRows cfg m f = [(dataPair cfg f).1, (dataPair cfg f).2] := by
  rw [fragmentRows, metadataRows, if_neg (by omega)]
  rfl

theorem parseFragment_dataPair (cfg : Cfg) {f : Nat × Nat × List Sym} (hindex : 1 ≤ f.1) (hshift : f.2.1 ≤ 9) :
    parseFragment [(dataPair cfg f).1, (dataPair cfg f).2] = .ok (recordOf cfg f) := by
  have hline := parseList_written (List.cons_ne_nil f.1 [f.2.1]) comma_notMem_dec fun n _ => parseNat_dec n
  exact parseFragment_ok _ _ (parseIndexShift_eq_some hline) hindex hshift

/-! ## DECODE of a message (45_reassembler.md R132) -/

/-- The surviving lines of texts of data fragments are their pairs of lines. -/
theorem survivingLines_dataTexts {cfg : Cfg} (hlegal : cfg.legal = true) {m : HeaderMeta} {texts : List Text}
    {fs : List (Nat × Nat × List Sym)} (h : List.Forall₂ (IsFragmentText cfg m) texts fs)
    (hkept : ∀ text ∈ texts, ∀ line ∈ (linesOf text).dropLast, line ≠ [] ∧ line ≠ endToken) (hindex : ∀ f ∈ fs, 1 ≤ f.1) :
    survivingLines texts = pairLines (fs.map (dataPair cfg)) := by
  rw [survivingLines_eq_flatMap]
  induction h with
  | nil => rfl
  | cons hf _ ih =>
    obtain ⟨htext, htexts⟩ := List.forall_mem_cons.mp hkept
    obtain ⟨hfirst, hrest⟩ := List.forall_mem_cons.mp hindex
    rw [List.flatMap_cons, hf.survivingLines hlegal htext, fragmentRows_data cfg m hfirst, ih htexts hrest]
    rfl

/-- DECODE of a header text and then of the texts of data fragments in any order is BUILD of all their symbols in index order. -/
theorem decodeCorpus_message {cfg : Cfg} (hlegal : cfg.legal = true) {m : HeaderMeta} {nlat nlon k : Nat}
    (hheader : HeaderReads cfg m nlat nlon) (hk : k ≤ 9) {symbols : List Sym} {first : Text}
    (hfirst : IsFragmentText cfg m first (0, k, symbols)) {texts corpus : List Text} {message : List (Nat × Nat × List Sym)}
    (htexts : List.Forall₂ (IsFragmentText cfg m) texts message) (hcorpus : corpus.Perm texts)
    (hindex : ∀ f ∈ message, 1 ≤ f.1) (hshift : ∀ f ∈ message, f.2.1 ≤ 9) (hascending : message.Pairwise fun f g => f.1 < g.1)
    (hkept : ∀ text ∈ first :: texts, ∀ line ∈ (linesOf text).dropLast, line ≠ [] ∧ line ≠ endToken) :
    decodeCorpus cfg (first :: corpus) =
      rebuildField cfg (headerOfMeta m nlat nlon k (encodeText cfg symbols k))
        (symbolBits (symbols ++ message.flatMap fun f => f.2.2)) := by
  obtain ⟨hkeptFirst, hkeptTexts⟩ := List.forall_mem_cons.mp hkept
  obtain ⟨arrived, harrived, hperm⟩ := List.perm_comp_forall₂ hcorpus htexts
  have hlines : survivingLines (first :: corpus) =
      metadataRows 0 k m ++ encodeText cfg symbols k :: pairLines (arrived.map (dataPair cfg)) := by
    rw [survivingLines_eq_flatMap, List.flatMap_cons, ← survivingLines_eq_flatMap, hfirst.survivingLines hlegal hkeptFirst,
      survivingLines_dataTexts hlegal harrived (fun text htext => hkeptTexts text (hcorpus.mem_iff.mp htext))
        fun f hf => hindex f (hperm.mem_iff.mp hf), fragmentRows, List.append_assoc, List.singleton_append]
  have hparse : parseHeader cfg (survivingLines (first :: corpus)) =
      .ok (headerOfMeta m nlat nlon k (encodeText cfg symbols k)) := by
    rw [hlines, parseHeader_metadataRows hheader hk]
  have hrecords : ∀ p ∈ (arrived.map (dataPair cfg)).zip (arrived.map (recordOf cfg)),
      parseFragment [p.1.1, p.1.2] = .ok p.2 := by
    rw [List.zip_map']
    refine List.forall_mem_map.mpr fun f hf => ?_
    exact parseFragment_dataPair cfg (hindex f (hperm.mem_iff.mp hf)) (hshift f (hperm.mem_iff.mp hf))
  rw [decodeCorpus_of_fragments hparse (by rw [hlines]; rfl) (by simp) hrecords,
    reassemble_message hlegal hk rfl hshift hascending (hperm.map (recordOf cfg))]
  rfl

/-- DECODE of the texts of a whole message, those of its data fragments in any order, is BUILD of all its symbols. -/
theorem decodeCorpus_messageTexts {cfg : Cfg} (hlegal : cfg.legal = true) {m : HeaderMeta} {nlat nlon : Nat}
    (hheader : HeaderReads cfg m nlat nlon) {ss : List Sym} {shifts : List Nat} (hshifts : ∀ k ∈ shifts, k ≤ 9)
    (hcursor : messageCursor cfg m ss 0 0 shifts = ss.length) {first : Text} {others corpus : List Text}
    (htexts : first :: others = messageTexts cfg m ss 0 0 shifts) (hcorpus : corpus.Perm others)
    (hkept : ∀ text ∈ first :: others, ∀ line ∈ (linesOf text).dropLast, line ≠ [] ∧ line ≠ endToken) :
    ∃ k payload, decodeCorpus cfg (first :: corpus) = rebuildField cfg (headerOfMeta m nlat nlon k payload) (symbolBits ss) := by
  have hfragments := messageTexts_areFragmentTexts cfg m ss 0 0 shifts
  have hsymbols := messageFragments_symbols cfg m ss 0 0 shifts
  rw [hcursor, List.drop_length, List.append_nil, List.drop_zero] at hsymbols
  rw [← htexts] at hfragments
  cases shifts with
  | nil => cases htexts
  | cons k ks =>
    rw [messageFragments, List.flatMap_cons] at hsymbols
    obtain ⟨hk, hks⟩ := List.forall_mem_cons.mp hshifts
    obtain ⟨hfirst, hrest⟩ := List.forall₂_cons.mp hfragments
    have hdecode := decodeCorpus_message hlegal hheader hk hfirst hrest hcorpus
      (le_index_of_mem_messageFragments _ _ _ _ _ _) (fun f hf => hks _ (messageFragments_shift _ _ _ _ _ _ f hf))
      (messageFragments_ascending _ _ _ _ _ _) hkept
    rw [hsymbols] at hdecode
    exact ⟨k, _, hdecode⟩

/-! ## The round trip -/

section
variable {s s' : State} {operands : Port} {answers : List Bool} (hs : s.state ≠ .sending)
  (hpending : s.pending = startAndAnswers operands answers) (hstep : step s = .next s') (hs' : s'.state = .sending)
include hs hpending hstep hs'

/-- The message of an encode begun is that of its field, which is legal. -/
theorem step_start_message {F : WindField} (hoperands : operands.F = FieldOperand.of F) :
    ∃ S, fieldDefect F = none ∧ quantizeField s.cfg F = .ok S ∧ s'.header = fieldMeta F ∧
      s'.syms = groupBits (packSamples S) := by
  have hexec := (step_command hpending (rfl : decode 0x00000042 = .ok .start)).symm.trans hstep
  obtain ⟨-, ht⟩ := guarded_next_iff.mp hexec
  rw [ht] at hs' ⊢
  exact startNext_message (s := s.withOperands operands (answers.map (answerAct operands))) hs hoperands hs'

/-- No accepted text has a blank line before its last `NL`. -/
theorem noBlankLine_of_accepted {t : State} (hrun : Host.Core.run Sys2Proof.core (answers.length + 1) s = .next t) :
    ∀ text ∈ acceptedTexts (eventsSince s t), NoBlankLine text := by
  obtain ⟨hbegun, -, hrun'⟩ := run_startAndAnswers hs hpending hstep hs'
  obtain rfl : t = (s'.answered answers).afterAct [] := Host.Outcome.next.inj (hrun.symm.trans hrun')
  obtain ⟨log, hlog, hall⟩ := hbegun.sendsNoBlankLine.answered (answers := answers) hbegun.inv
  intro text htext
  rw [eventsSince, State.afterAct_txlog, hlog, List.drop_left] at htext
  exact hall text (send_mem_of_mem_acceptedTexts htext)

end

/-- Settles O60: the accepted texts are those of the consecutive fragments of the message (`acceptedRangesCover`), so DECODE has all
its symbols back (`decodeCorpus_messageTexts`), and the bit-packer gives back the samples (`packedSamplesSurvive`). -/
theorem codecRoundTrip : Obligations.CodecRoundTrip := by
  intro s s' t r operands F answers first others corpus hs hoperands hpending hstep hs' hrun hdone hlat hlon haccepted hend
    hreals hcorpus hcfg hport
  obtain ⟨hbegun, hcfg', -⟩ := run_startAndAnswers hs hpending hstep hs'
  have hlegal : s.cfg.legal = true := hcfg' ▸ hbegun.inv.legal
  obtain ⟨S, hdefect, hsamples, hheader, hsyms⟩ := step_start_message hs hpending hstep hs' hoperands
  obtain ⟨shifts, -, hshifts, htexts, hcursor⟩ :=
    acceptedRangesCover s s' t operands answers hs hpending hstep hs' hrun hdone
  have hblank := noBlankLine_of_accepted hs hpending hstep hs' hrun
  rw [haccepted] at htexts hblank
  rw [hbegun.inv.nsymIsLength] at hcursor
  rw [hheader, hsyms] at htexts hcursor
  have hreads : HeaderReads s.cfg (fieldMeta F) F.lat.length F.lon.length :=
    ⟨fieldDefect_eq_none_iff.mp hdefect .noHours, F.base.valid_iff.mpr (fieldDefect_eq_none_iff.mp hdefect .baseTime), hreals,
      hlat, hlon⟩
  obtain ⟨k, payload, hdecode⟩ := decodeCorpus_messageTexts hlegal hreads hshifts hcursor htexts hcorpus
    fun text htext line hline => ⟨hblank text htext line hline, hend text htext line hline⟩
  have hunpack : unpackNibbles (splitBits (symbolBits (groupBits (packSamples S))))
      (headerCells (headerOfMeta (fieldMeta F) F.lat.length F.lon.length k payload)) = .ok S := by
    rw [headerCells_headerOfMeta]
    have hcells : S.length = (fieldMeta F).hours.length * F.lat.length * F.lon.length := quantizeField_length hsamples
    rw [← hcells]
    exact (packedSamplesSurvive S).1
  rw [rebuildField_of_samples hunpack, ← hcfg, ← hport] at hdecode
  have hexec := (exec_decode r).trans (datapath_map_ok (hcfg ▸ hlegal) Value.field hdecode)
  exact ⟨S, _, hsamples, hexec, rfl, rfl, rfl, rfl⟩

end Sys2Proof.Machine
end

section
/-! PROOFS. IllegalCommand and OperandRange (spec/60_exceptions.md R138, R139, R140): which commands raise them, and for what. -/

namespace Sys2Proof.Machine

/-! ## An answer that is never IllegalCommand (60_exceptions.md R138) -/

/-- `r` is a result, or an error other than IllegalCommand. -/
def NeverIllegal {α : Type} (r : Except Err α) : Prop := ∀ info, r ≠ .error (.illegalCommand info)

section
variable {α β : Type}

theorem NeverIllegal.ok (x : α) : NeverIllegal (.ok x : Except Err α) := nofun

theorem NeverIllegal.error {e : Err} (h : ∀ info, e ≠ .illegalCommand info) : NeverIllegal (.error e : Except Err α) :=
  fun info heq => h info (Except.error.inj heq)

theorem NeverIllegal.bind {r : Except Err α} {f : α → Except Err β} (hr : NeverIllegal r) (hf : ∀ x, NeverIllegal (f x)) :
    NeverIllegal (r >>= f) := by
  cases r with
  | error e => exact .error fun info he => hr info (congrArg _ he)
  | ok x => exact hf x

theorem NeverIllegal.ite {c : Prop} [Decidable c] {r r' : Except Err α} (hr : NeverIllegal r) (hr' : NeverIllegal r') :
    NeverIllegal (if c then r else r') := by
  split
  · exact hr
  · exact hr'

theorem NeverIllegal.mapM {f : α → Except Err β} (hf : ∀ x, NeverIllegal (f x)) (xs : List α) :
    NeverIllegal (xs.mapM f) := by
  induction xs with
  | nil => exact .ok []
  | cons x xs ih =>
    rw [List.mapM_cons]
    exact (hf x).bind fun _ => ih.bind fun _ => .ok _

end

/-! ## Operands: ShiftRange and OperandRange only -/

theorem requireOperand_neverIllegal {α : Type} (name : OperandName) (x : Option α) : NeverIllegal (requireOperand name x) := by
  cases x with
  | none => exact .error nofun
  | some x => exact .ok x

theorem shiftOf_neverIllegal (cfg : Cfg) (shift : BitVec 4) : NeverIllegal (shiftOf cfg shift) := .ite (.ok _) (.error nofun)

theorem symbolsOf_neverIllegal (name : OperandName) (ns : List Nat) : NeverIllegal (symbolsOf name ns) :=
  .ite (.ok _) (.error nofun)

theorem nibblesOf_neverIllegal (name : OperandName) (ns : List Nat) : NeverIllegal (nibblesOf name ns) :=
  .ite (.ok _) (.error nofun)

theorem bitsOf_neverIllegal (name : OperandName) (ns : List Nat) : NeverIllegal (bitsOf name ns) :=
  .ite (.ok _) (.error nofun)

theorem samplesOf_neverIllegal (name : OperandName) (ps : List (Nat × Nat)) : NeverIllegal (samplesOf name ps) :=
  .ite (.ok _) (.error nofun)

theorem metaOf_neverIllegal (m : MetaOperand) : NeverIllegal (metaOf m) := requireOperand_neverIllegal _ _

theorem fieldOf_neverIllegal (F : FieldOperand) : NeverIllegal (fieldOf F) := requireOperand_neverIllegal _ _

theorem headerOf_neverIllegal (h : HeaderOperand) : NeverIllegal (headerOf h) := requireOperand_neverIllegal _ _

theorem fragmentsOf_neverIllegal (frs : List FragmentOperand) : NeverIllegal (fragmentsOf frs) :=
  .mapM (fun _ => requireOperand_neverIllegal _ _) frs

/-! ## The operations: each raises errors of its own rules -/

theorem decodeSymbol_neverIllegal (cfg : Cfg) (t : Text) (p k : Nat) : NeverIllegal (decodeSymbol cfg t p k) := by
  rw [decodeSymbol]
  split
  · exact .ok _
  · exact .error nofun

theorem quantizeField_neverIllegal (cfg : Cfg) (F : WindField) : NeverIllegal (quantizeField cfg F) := by
  refine .ite ?_ (.error nofun)
  intro info heq
  cases quantizeCells_error heq

theorem unpackNibbles_neverIllegal (nb : List Nib) (N : Nat) : NeverIllegal (unpackNibbles nb N) := .ite (.ok _) (.error nofun)

theorem formatHeader_neverIllegal (m : HeaderMeta) (k : Nat) : NeverIllegal (formatHeader m k) := .ite (.ok _) (.error nofun)

theorem buildFragment_neverIllegal (cfg : Cfg) (index k : Nat) (ss : List Sym) (cur : Nat) {record : Except Err HeaderMeta}
    (h : NeverIllegal record) : NeverIllegal (buildFragment cfg index k ss cur record) :=
  .ite (.error nofun) (.ite (h.bind fun m => (formatHeader_neverIllegal m k).bind fun _ => .ok _) (.ok _))

theorem orHeader_neverIllegal {α : Type} (reason : HeaderReason) (x : Option α) : NeverIllegal (orHeader reason x) := by
  cases x with
  | none => exact .error nofun
  | some x => exact .ok x

theorem parseHeader_neverIllegal (cfg : Cfg) (ls : List Text) : NeverIllegal (parseHeader cfg ls) := by
  rw [parseHeader.eq_def]
  split
  · refine (orHeader_neverIllegal _ _).bind fun _ => (orHeader_neverIllegal _ _).bind fun _ => ?_
    refine (orHeader_neverIllegal _ _).bind fun _ => (orHeader_neverIllegal _ _).bind fun _ => ?_
    refine (orHeader_neverIllegal _ _).bind fun _ => (orHeader_neverIllegal _ _).bind fun _ => ?_
    exact (orHeader_neverIllegal _ _).bind fun _ => .ok _
  · exact .error nofun

theorem parseFragment_neverIllegal (ls : List Text) : NeverIllegal (parseFragment ls) := by
  rw [parseFragment.eq_def]
  split
  · split
    · exact .error nofun
    · exact .ite (.error nofun) (.ite (.error nofun) (.ok _))
  · exact .error nofun

theorem payloadBits_neverIllegal (cfg : Cfg) (index k : Nat) (payload : Text) :
    NeverIllegal (payloadBits cfg index k payload) := by
  rw [payloadBits]
  split
  · exact .ok _
  · exact .error nofun

theorem joinPayloads_cons (cfg : Cfg) (f : DataFragment) (fs : List DataFragment) :
    joinPayloads cfg (f :: fs) = (do
      let b ← payloadBits cfg f.index f.shift f.payload
      let bs ← joinPayloads cfg fs
      pure (b ++ bs)) := by
  rw [joinPayloads]
  cases payloadBits cfg f.index f.shift f.payload with
  | error e => rfl
  | ok b => cases joinPayloads cfg fs <;> rfl

theorem joinPayloads_neverIllegal (cfg : Cfg) (fs : List DataFragment) : NeverIllegal (joinPayloads cfg fs) := by
  induction fs with
  | nil => exact .ok _
  | cons f fs ih =>
    rw [joinPayloads_cons]
    exact (payloadBits_neverIllegal cfg _ _ _).bind fun _ => ih.bind fun _ => .ok _

theorem reassemble_neverIllegal (cfg : Cfg) (hdr : Header) (frs : List DataFragment) :
    NeverIllegal (reassemble cfg hdr frs) := by
  rw [reassemble]
  split
  · exact .error nofun
  · exact (payloadBits_neverIllegal cfg _ _ _).bind fun _ => (joinPayloads_neverIllegal cfg _).bind fun _ => .ok _

theorem rebuildField_neverIllegal (cfg : Cfg) (hdr : Header) (b : Bits) : NeverIllegal (rebuildField cfg hdr b) :=
  (unpackNibbles_neverIllegal _ _).bind fun _ => .ok _

theorem parsePairs_cons (l₁ l₂ : Text) (rest : List Text) :
    parsePairs (l₁ :: l₂ :: rest) = (do
      let f ← parseFragment [l₁, l₂]
      let fs ← parsePairs rest
      pure (f :: fs)) := by
  rw [parsePairs]
  cases parseFragment [l₁, l₂] with
  | error e => rfl
  | ok f => cases parsePairs rest <;> rfl

theorem parsePairs_neverIllegal (ls : List Text) : NeverIllegal (parsePairs ls) := by
  induction ls using List.twoStepInduction with
  | nil => exact .ok _
  | singleton l => exact .ok _
  | cons_cons l₁ l₂ rest ih =>
    rw [parsePairs_cons]
    exact (parseFragment_neverIllegal _).bind fun _ => ih.bind fun _ => .ok _

theorem decodeCorpus_neverIllegal (cfg : Cfg) (ts : List Text) : NeverIllegal (decodeCorpus cfg ts) := by
  refine (parseHeader_neverIllegal cfg _).bind fun hdr => .ite (.error nofun) ?_
  refine (parsePairs_neverIllegal _).bind fun frs => (reassemble_neverIllegal cfg hdr frs).bind fun b => ?_
  exact rebuildField_neverIllegal cfg hdr b

theorem renderRequest_neverIllegal (s : State) : NeverIllegal (renderRequest s) :=
  (shiftOf_neverIllegal _ _).bind fun _ => buildFragment_neverIllegal _ _ _ _ _ (.ok _)

/-! ## The commands -/

/-- Every command that is no sequencer command is an answer that is never IllegalCommand, put out through `datapath`. -/
theorem exec_pure_neverIllegal {i : Instr} (h : isPure i = true) (s : State) :
    ∃ r, exec i s = datapath s r ∧ NeverIllegal r := by
  cases i with
  | start | sendack _ | cancel => cases h
  | rdstat | rdidx | dequant _ _ | rawsplit => exact ⟨_, rfl, .ok _⟩
  | encsym _ _ => exact ⟨_, rfl, (shiftOf_neverIllegal _ _).bind fun _ => .ok _⟩
  | decsym _ => exact ⟨_, rfl, (shiftOf_neverIllegal _ _).bind fun _ => (decodeSymbol_neverIllegal _ _ _ _).bind fun _ => .ok _⟩
  | encstr _ => exact ⟨_, rfl, (shiftOf_neverIllegal _ _).bind fun _ => (symbolsOf_neverIllegal _ _).bind fun _ => .ok _⟩
  | decstr _ =>
    refine ⟨_, rfl, (shiftOf_neverIllegal _ _).bind fun k => ?_⟩
    split
    · exact .ok _
    · exact .error nofun
  | quant =>
    refine ⟨_, rfl, ?_⟩
    split
    · exact .ok _
    · exact .error nofun
  | qfield => exact ⟨_, rfl, (fieldOf_neverIllegal _).bind fun _ => (quantizeField_neverIllegal _ _).bind fun _ => .ok _⟩
  | pack => exact ⟨_, rfl, (samplesOf_neverIllegal _ _).bind fun _ => .ok _⟩
  | group | split => exact ⟨_, rfl, (bitsOf_neverIllegal _ _).bind fun _ => .ok _⟩
  | unpack => exact ⟨_, rfl, (nibblesOf_neverIllegal _ _).bind fun _ => (unpackNibbles_neverIllegal _ _).bind fun _ => .ok _⟩
  | symbits => exact ⟨_, rfl, (symbolsOf_neverIllegal _ _).bind fun _ => .ok _⟩
  | hdrfmt _ =>
    refine ⟨_, rfl, (shiftOf_neverIllegal _ _).bind fun _ => (metaOf_neverIllegal _).bind fun _ => ?_⟩
    exact (formatHeader_neverIllegal _ _).bind fun _ => .ok _
  | frag _ =>
    refine ⟨_, rfl, (shiftOf_neverIllegal _ _).bind fun _ => (symbolsOf_neverIllegal _ _).bind fun _ => ?_⟩
    exact (buildFragment_neverIllegal _ _ _ _ _ (metaOf_neverIllegal _)).bind fun _ => .ok _
  | parsehdr => exact ⟨_, rfl, (parseHeader_neverIllegal _ _).bind fun _ => .ok _⟩
  | parsefrag => exact ⟨_, rfl, (parseFragment_neverIllegal _).bind fun _ => .ok _⟩
  | reasm =>
    refine ⟨_, rfl, (headerOf_neverIllegal _).bind fun _ => (fragmentsOf_neverIllegal _).bind fun _ => ?_⟩
    exact (reassemble_neverIllegal _ _ _).bind fun _ => .ok _
  | axes => exact ⟨_, rfl, (orHeader_neverIllegal _ _).bind fun _ => .ok _⟩
  | build =>
    refine ⟨_, rfl, (headerOf_neverIllegal _).bind fun _ => (bitsOf_neverIllegal _ _).bind fun _ => ?_⟩
    exact (rebuildField_neverIllegal _ _ _).bind fun _ => .ok _
  | decode => exact ⟨_, rfl, (decodeCorpus_neverIllegal _ _).bind fun _ => .ok _⟩

section
variable (s : State) (info : IllegalInfo)

theorem NeverIllegal.finish_out {r : Except Err Value} (h : NeverIllegal r) : (s.finish r).out ≠ .err (.illegalCommand info) := by
  cases r with
  | ok v => nofun
  | error e => exact fun hout => h info (congrArg _ (Output.err.inj hout))

theorem render_out_ne_illegal (before : State) : (s.render before).out ≠ .err (.illegalCommand info) := by
  obtain ⟨e, hrequest, ht⟩ | ⟨text, -, ht⟩ | ⟨text, n, -, ht⟩ := render_cases s before <;> rw [ht]
  · exact fun hout => renderRequest_neverIllegal s info (Output.err.inj hout ▸ hrequest)
  · nofun
  · nofun

theorem begin_out_ne_illegal (F : WindField) : (s.begin F).out ≠ .err (.illegalCommand info) := by
  obtain ⟨reason, -, ht⟩ | ⟨e, -, hcells, ht⟩ | ⟨S, -, -, ht⟩ := begin_cases s F <;> rw [ht]
  · nofun
  · exact fun hout => quantizeField_neverIllegal s.cfg F info (Output.err.inj hout ▸ hcells)
  · exact render_out_ne_illegal _ info s

theorem accepted_out_ne_illegal : s.accepted.out ≠ .err (.illegalCommand info) := by
  obtain ⟨-, ht⟩ | ⟨-, ht⟩ := accepted_cases s <;> rw [ht]
  · nofun
  · exact render_out_ne_illegal _ info s

theorem rejected_out_ne_illegal : s.rejected.out ≠ .err (.illegalCommand info) := by
  obtain ⟨-, ht⟩ | ⟨-, ht⟩ := rejected_cases s <;> rw [ht]
  · nofun
  · exact render_out_ne_illegal _ info s

theorem cancelNext_out_ne_illegal : s.cancelNext.out ≠ .err (.illegalCommand info) := by
  obtain ⟨-, ht⟩ | ⟨-, ht⟩ := cancelNext_cases s <;> rw [ht] <;> nofun

end

/-- START raises IllegalCommand in SENDING alone, with Busy. -/
theorem startNext_illegal {s : State} {info : IllegalInfo} (h : s.startNext.out = .err (.illegalCommand info)) :
    s.state = .sending ∧ info = .busy := by
  obtain ⟨hs, ht⟩ | ⟨-, e, hfield, ht⟩ | ⟨-, F, -, ht⟩ := startNext_cases s <;> rw [ht] at h
  · cases h
    exact ⟨hs, rfl⟩
  · cases h
    exact absurd hfield (fieldOf_neverIllegal _ info)
  · exact absurd h (begin_out_ne_illegal s info F)

/-- SENDACK raises IllegalCommand outside SENDING alone, with NotSending. -/
theorem sendackNext_illegal {s : State} {ok : Bool} {info : IllegalInfo}
    (h : (s.sendackNext ok).out = .err (.illegalCommand info)) : s.state ≠ .sending ∧ info = .notSending := by
  obtain ⟨hs, ht⟩ | ⟨-, -, ht⟩ | ⟨-, -, ht⟩ := sendackNext_cases s ok <;> rw [ht] at h
  · cases h
    exact ⟨hs, rfl⟩
  · exact absurd h (accepted_out_ne_illegal s info)
  · exact absurd h (rejected_out_ne_illegal s info)

/-- A command that runs raises IllegalCommand in two cases alone. -/
theorem exec_illegal {i : Instr} {s t : State} {info : IllegalInfo} (h : exec i s = .next t)
    (hout : t.out = .err (.illegalCommand info)) :
    (i = .start ∧ s.state = .sending ∧ info = .busy) ∨
      ∃ ok, i = .sendack ok ∧ s.state ≠ .sending ∧ info = .notSending := by
  obtain ⟨-, ⟨hpure, -⟩ | ⟨rfl, rfl⟩ | ⟨ok, rfl, rfl⟩ | ⟨-, rfl⟩⟩ := exec_cases h
  · obtain ⟨r, heq, hr⟩ := exec_pure_neverIllegal hpure s
    obtain ⟨-, rfl⟩ := datapath_next_iff.mp (heq.symm.trans h)
    exact absurd hout (hr.finish_out s info)
  · exact .inl ⟨rfl, startNext_illegal hout⟩
  · exact .inr ⟨ok, rfl, sendackNext_illegal hout⟩
  · exact absurd hout (cancelNext_out_ne_illegal s info)

/-! ## A word that no row matches -/

/-- The decoder refuses a word that is not legal (30_encoding.md R59). -/
theorem exists_decode_error {w : Word} (h : wordLegal w = false) : ∃ e, decode w = .error e := by
  cases hdecode : decode w with
  | error e => exact ⟨e, rfl⟩
  | ok i =>
    obtain ⟨hlegal, -⟩ := decodeFollowsTable.1 w
    exact absurd (hlegal.mp ⟨i, hdecode⟩) (Bool.eq_false_iff.mp h)

theorem step_illegal_word {s : State} {w : Word} {operands : Port} {rest : List HostAct} (hlegal : s.cfg.legal = true)
    (hpending : s.pending = .command w operands :: rest) (hword : wordLegal w = false) :
    step s = .next ((s.withOperands operands rest).raise (.illegalCommand (.word w))) := by
  obtain ⟨e, hdecode⟩ := exists_decode_error hword
  simp only [step, hpending, hdecode, guarded_eq_next hlegal]

/-- Settles O7: the decoder refuses the word, the state check of START and SENDACK comes first, and no other answer is
IllegalCommand (`exec_illegal`). -/
theorem illegalCommandCases : Obligations.IllegalCommandCases := by
  refine ⟨fun s w operands rest => step_illegal_word, fun s hlegal hs => ?_, fun s ok hlegal hs => ?_,
    fun s t i info => exec_illegal⟩
  · rw [exec_start hlegal, State.startNext, if_pos hs]
    rfl
  · rw [exec_sendack hlegal, sendackNext_of_not_sending hs]
    rfl

/-! ## Operands outside their domains (60_exceptions.md R139) -/

section
variable (name : OperandName)

theorem symbolsOf_error {ns : List Nat} (h : ∃ n ∈ ns, 128 ≤ n) : symbolsOf name ns = .error (.operandRange name) :=
  if_neg (by simpa using h)

theorem nibblesOf_error {ns : List Nat} (h : ∃ n ∈ ns, 16 ≤ n) : nibblesOf name ns = .error (.operandRange name) :=
  if_neg (by simpa using h)

theorem bitsOf_error {ns : List Nat} (h : ∃ n ∈ ns, 2 ≤ n) : bitsOf name ns = .error (.operandRange name) :=
  if_neg (by simpa [Nat.lt_iff_add_one_le] using h)

theorem samplesOf_error {ps : List (Nat × Nat)} (h : ∃ q ∈ ps, 16 ≤ q.1 ∨ 16 ≤ q.2) :
    samplesOf name ps = .error (.operandRange name) := by
  obtain ⟨q, hq, hrange⟩ := h
  refine if_neg fun hall => ?_
  have hin := List.all_eq_true.mp hall q hq
  simp only [Bool.and_eq_true, decide_eq_true_eq] at hin
  omega

end

theorem metaOf_error {m : MetaOperand} (h : m.whole = none) : metaOf m = .error (.operandRange .metadata) := by
  rw [metaOf, h, requireOperand]

theorem fieldOf_error {F : FieldOperand} (h : F.whole = none) : fieldOf F = .error (.operandRange .F) := by
  rw [fieldOf, h, requireOperand]

theorem headerOf_error {hdr : HeaderOperand} (h : hdr.whole = none) : headerOf hdr = .error (.operandRange .hdr) := by
  rw [headerOf, h, Option.filter_none, requireOperand]

theorem dataFragmentOf_error {f : FragmentOperand} (h : f.whole = none) :
    dataFragmentOf f = .error (.operandRange .frs) := by
  rw [dataFragmentOf, h, Option.filter_none, requireOperand]

/-- A record of `frs` is taken, or the error names `frs`. -/
theorem dataFragmentOf_cases (f : FragmentOperand) :
    (∃ r, dataFragmentOf f = .ok r) ∨ dataFragmentOf f = .error (.operandRange .frs) := by
  rw [dataFragmentOf]
  cases f.whole.filter _ with
  | none => exact .inr rfl
  | some r => exact .inl ⟨r, rfl⟩

theorem fragmentsOf_cons (f : FragmentOperand) (frs : List FragmentOperand) :
    fragmentsOf (f :: frs) = (do
      let r ← dataFragmentOf f
      let rs ← fragmentsOf frs
      pure (r :: rs)) := List.mapM_cons

theorem fragmentsOf_error {frs : List FragmentOperand} (h : ∃ f ∈ frs, f.whole = none) :
    fragmentsOf frs = .error (.operandRange .frs) := by
  induction frs with
  | nil => simp at h
  | cons f frs ih =>
    rw [fragmentsOf_cons]
    obtain ⟨r, hr⟩ | herror := dataFragmentOf_cases f
    · have hrest : ∃ g ∈ frs, g.whole = none := by
        obtain ⟨g, hg, hnone⟩ := h
        obtain rfl | hg := List.mem_cons.mp hg
        · cases hr.symm.trans (dataFragmentOf_error hnone)
        · exact ⟨g, hg, hnone⟩
      rw [hr, ih hrest]
      rfl
    · rw [herror]
      rfl

theorem buildFragment_record_raises (cfg : Cfg) (k : Nat) {ss : List Sym} {cur : Nat} (hcur : cur ≤ ss.length) (e : Err) :
    buildFragment cfg 0 k ss cur (.error e) = .error e := by
  rw [buildFragment, if_neg (Nat.not_lt.mpr hcur), if_pos rfl]
  rfl

/-! ## The commands that take them (60_exceptions.md R140) -/

section
variable {s : State} {α : Type} {r : Except Err α} (f : α → Except Err Value)

theorem datapath_bind_ok {x : α} (hr : r = .ok x) : datapath s (r >>= f) = datapath s (f x) := by
  rw [hr]
  rfl

/-- An operand a command reads and cannot take ends it with the operand's error. -/
theorem datapath_bind_error (hlegal : s.cfg.legal = true) {e : Err} (hr : r = .error e) :
    datapath s (r >>= f) = .next { s with out := .err e } := by
  rw [hr]
  exact datapath_error hlegal e

end

section
variable {s : State} (hlegal : s.cfg.legal = true)
include hlegal

theorem exec_start_error (hs : s.state ≠ .sending) {e : Err} (h : fieldOf s.port.F = .error e) :
    exec .start s = .next { s with out := .err e } := by
  rw [exec_start hlegal, State.startNext, if_neg hs, h]
  rfl

theorem exec_frag_incomplete_record {ss : List Sym} {shift : BitVec 4} (hshift : shift.toNat ≤ 9)
    (hport : s.port.ss = ss.map BitVec.toNat) (hcur : s.port.cur ≤ ss.length) (hindex : s.port.index = 0)
    (hrecord : s.port.metadata.whole = none) :
    exec (.frag shift) s = .next { s with out := .err (.operandRange .metadata) } := by
  have hss : symbolsOf .ss s.port.ss = .ok ss := hport ▸ symbolsOf_map_toNat .ss ss
  have hbuild : buildFragment s.cfg s.port.index shift.toNat ss s.port.cur (metaOf s.port.metadata) =
      .error (.operandRange .metadata) := by
    rw [hindex, metaOf_error hrecord, buildFragment_record_raises s.cfg shift.toNat hcur]
  rw [exec_frag hlegal hshift, fragAnswer_of_error hss hbuild]
  exact datapath_error hlegal _

end

/-- Settles O13: each command reads its operands through the operation that raises the error, after those R140 puts before. -/
theorem operandRangeRaised : Obligations.OperandRangeRaised := by
  intro s hlegal
  refine ⟨fun hss => ?_, fun hS => ?_, fun hb => ?_, fun hnb => ?_, fun hmeta shift hshift => ?_, fun hF => ?_,
    fun hhdr => ?_, fun ss hport hcur hindex hmeta shift hshift => ?_, fun hdr hport hshift => ?_⟩
  · have hss := symbolsOf_error .ss hss
    refine ⟨datapath_bind_error _ hlegal hss, fun shift hshift => ⟨?_, ?_⟩⟩
    · exact (datapath_shift_ok _ hlegal hshift).trans (datapath_bind_error _ hlegal hss)
    · exact (datapath_shift_ok _ hlegal hshift).trans (datapath_bind_error _ hlegal hss)
  · exact datapath_bind_error _ hlegal (samplesOf_error .S hS)
  · have hb := bitsOf_error .b hb
    exact ⟨datapath_bind_error _ hlegal hb, datapath_bind_error _ hlegal hb⟩
  · exact datapath_bind_error _ hlegal (nibblesOf_error .nb hnb)
  · exact (datapath_shift_ok _ hlegal hshift).trans (datapath_bind_error _ hlegal (metaOf_error hmeta))
  · have hF := fieldOf_error hF
    exact ⟨datapath_bind_error _ hlegal hF, fun hs => exec_start_error hlegal hs hF⟩
  · have hhdr := headerOf_error hhdr
    exact ⟨datapath_bind_error _ hlegal hhdr, datapath_bind_error _ hlegal hhdr⟩
  · exact exec_frag_incomplete_record hlegal hshift hport hcur hindex hmeta
  · have hhdr : headerOf s.port.hdr = .ok hdr := hport ▸ headerOf_of hshift
    refine ⟨fun hfrs => ?_, fun hbits => ?_⟩
    · exact (datapath_bind_ok _ hhdr).trans (datapath_bind_error _ hlegal (fragmentsOf_error hfrs))
    · exact (datapath_bind_ok _ hhdr).trans (datapath_bind_error _ hlegal (bitsOf_error .bits hbits))

end Sys2Proof.Machine
end
